-- ==== Sys2Proof/Word.lean ====
section
/-! DEFINITION. The value types of 10_state.md R21, no operation on them. The unbounded ones are plain `Nat` everywhere: a
timestamp and a duration in microseconds (R21, D1), a timer handle, of which only equality is used (R63), and a pending
handle (D20). -/

namespace Sys2Proof

/-- A byte of a frame (R21). -/
abbrev Byte := BitVec 8

/-- One logical bit, 0 or 1 (R21). -/
abbrev Bit := BitVec 1

/-- A logical address, 0 to 15; 15 is broadcast or unregistered (R21, R68). -/
abbrev LogicalAddress := BitVec 4

/-- A line level (R21, R62). -/
inductive Level where
  | low
  | high
deriving DecidableEq, Repr

end Sys2Proof
end

