-- ==== Sys2Proof/Config.lean ====
section
/-! DEFINITION. The configuration record `cfg` (00_scope.md R7, the control registers of 10_state.md R33), the values
it has at `State.reset`, and the free values: constants without a body that stand for what the environment answers
when the model has been told no answer. -/

namespace Sys2Proof

/-- A tolerance band (min, nominal, max) of durations (R7, R18). -/
structure Band where
  min : Nat
  nom : Nat
  max : Nat
deriving DecidableEq, Repr

/-- The configuration record `cfg`, fixed from reset on (R7, R33). -/
structure Config where
  /-- `START_LOW`: low phase of the start bit. -/
  startLow : Band
  /-- `START_TOTAL`: total period of the start bit. -/
  startTotal : Band
  /-- `BIT0_LOW`: low phase of a data bit of value 0. -/
  bit0Low : Band
  /-- `BIT1_LOW`: low phase of a data bit of value 1. -/
  bit1Low : Band
  /-- `SAMPLE_POINT`: the safe sample point of a bit cell. -/
  samplePoint : Band
  /-- `BIT_PERIOD`: total period of a data bit cell. -/
  bitPeriod : Band
  /-- `FT_NEW`: free time before a new frame. -/
  ftNew : Nat
  /-- `FT_OWN`: free time after one's own prior frame. -/
  ftOwn : Nat
  /-- `FT_RETRY`: free time before a retried frame. -/
  ftRetry : Nat
  /-- `MAX_ATTEMPTS`: greatest number of attempts of one transaction, the first included (R11). -/
  maxAttempts : Nat
  /-- `ARB_IN_HEADER`: whether arbitration is monitored through the header block. -/
  arbInHeader : Bool
  /-- `RX_TIMEOUT`: receive inactivity time-out. -/
  rxTimeout : Nat
  /-- `OWN_ADDR`: the logical address this device answers to. -/
  ownAddr : LogicalAddress
deriving DecidableEq, Repr

/-- `MAX_PAYLOAD`, fixed at 14 (R7). -/
abbrev maxPayload : Nat := 14

/-- The configuration that `State.reset` holds. PRESUMED for the six bands (profile T1 of R9, which the spec gives from
general knowledge), DESIGN CHOICE for the rest (T1v of 95_test_vectors.md section 0): unsafe, log 1. Every field is an
OPEN parameter (92_eei_decisions.md); no statement rests on these values unless it says so. -/
def Config.t1v : Config where
  startLow := ⟨3500, 3700, 3900⟩
  startTotal := ⟨4300, 4500, 4700⟩
  bit0Low := ⟨1300, 1500, 1700⟩
  bit1Low := ⟨400, 600, 800⟩
  samplePoint := ⟨850, 1050, 1250⟩
  bitPeriod := ⟨2050, 2400, 2750⟩
  ftNew := 12000
  ftOwn := 7200
  ftRetry := 16800
  maxAttempts := 2
  arbInHeader := true
  rxTimeout := 4700
  ownAddr := 4

/-- FREE VALUE (log 3): whether some other device pulls the line low at the n-th draw, when no answer is ready (R36, R60). -/
opaque Config.othersPullLow : Nat → Bool

/-- FREE VALUE (log 3): how far the clock has moved at the n-th draw, when no answer is ready (R36, R64). -/
opaque Config.elapsed : Nat → Nat

/-- FREE VALUE (log 3): what the acknowledge hook answers for a destination and a block index at the n-th draw, when no
answer is ready (R36, R65). -/
opaque Config.hookSays : LogicalAddress → Nat → Nat → Bool

/-- FREE VALUE (log 14): the bit `TX_BIT` gives for arguments outside its domain, or with no frame latched (R136). -/
opaque Config.strayBit : Nat → Bit

end Sys2Proof
end

