-- ==== Sys2Proof/Syntax.lean ====
section
/-! DEFINITION. The values the operations carry (frames, blocks, verdicts, results) and the operations themselves: one
constructor of `Instr` per row of spec/opcode_table.json (30_encoding.md R95). -/

namespace Sys2Proof

/-- A frame: source, destination, payload of 0 to 14 bytes (R21, R22). The header byte is derived, not stored. -/
structure Frame where
  source : LogicalAddress
  destination : LogicalAddress
  payload : List Byte
deriving DecidableEq, Repr

/-- A block: a byte, its EOM bit, its ACK outcome or none (R21, D30). -/
structure Block where
  data : Byte
  eom : Bit
  ack : Option Bit
deriving DecidableEq, Repr

/-- The six error kinds (R94, R280), in the order of their codes. -/
inductive ErrorKind where
  | timingViolation
  | arbitration
  | noAcknowledge
  | truncated
  | invalidEom
  | invalidState
deriving DecidableEq, Repr

/-- The reasons of `Failed(reason)`, and the values of `tx_err` other than none (R21, R66). -/
inductive FailReason where
  | arbitration
  | noAcknowledge
deriving DecidableEq, Repr

/-- The values of `Reply` (R66, R93). -/
inductive ReplyValue where
  | accepted (h : Nat)
  | rejected
  | withdrawn
  | notWithdrawn
deriving DecidableEq, Repr

/-- The results of `Complete` (R66, R93): `Done(acks)` or `Failed(reason)`. -/
inductive CompletionResult where
  | done (acks : List Bit)
  | failed (reason : FailReason)
deriving DecidableEq, Repr

/-- What a measured pulse classifies as (R93, R113, R115). -/
inductive PulseClass where
  | bitValue (b : Bit)
  | startBit
  | timingViolation
deriving DecidableEq, Repr

/-- The results of `DECODE` (R93, R132). -/
inductive DecodeResult where
  | frame (f : Frame)
  | truncated
  | invalidEom
deriving DecidableEq, Repr

/-- The operations of the engine, one constructor per row of the operation map R95. -/
inductive Instr where
  /-- `START`: the start symbol with its two measured durations (R80, R81). -/
  | start (low total : Nat)
  /-- `BIT0`: the data symbol 0 with its two measured durations (R80, R81). -/
  | bit0 (low total : Nat)
  /-- `BIT1`: the data symbol 1 with its two measured durations (R80, R81). -/
  | bit1 (low total : Nat)
  /-- `BLOCK`: the 10-bit word `ddddddddea` (R84). -/
  | block (w : BitVec 10)
  /-- `HEADER`: the data byte `ssssdddd` of block 0 (R87). -/
  | header (h : Byte)
  /-- `E_FALL(t)`: the line went from High to Low at `t` (R90). -/
  | eFall (t : Nat)
  /-- `E_RISE(t)`: the line went from Low to High at `t` (R90). -/
  | eRise (t : Nat)
  /-- `E_TIMER(h)`: the timer armed under handle `h` expired (R90). -/
  | eTimer (h : Nat)
  /-- `A_SEND(f)`: the application's send (R90, R151). -/
  | aSend (f : Frame)
  /-- `A_CANCEL(p)`: the application withdraws request `p` (R90, R152). -/
  | aCancel (p : Nat)
  /-- `RESET`: the instance is created or re-created (R90, R320). -/
  | reset
  /-- `DRIVE_BIT(value, is_start)` (R112). -/
  | driveBit (value : Bit) (isStart : Bool)
  /-- `CLASSIFY_LOW(low)` (R113). -/
  | classifyLow (low : Nat)
  /-- `CHECK_PERIOD(total)` (R114). -/
  | checkPeriod (total : Nat)
  /-- `CLASSIFY_PULSE(low, total)` (R115). -/
  | classifyPulse (low total : Nat)
  /-- `ENCODE(f)` (R131). -/
  | encode (f : Frame)
  /-- `DECODE(bs)` (R132). -/
  | decode (bs : List Block)
  /-- `TX_BIT(i, k)` (R136). -/
  | txBit (i k : Nat)
  /-- `ACK_DECISION(dest, i)` (R209). -/
  | ackDecision (dest : LogicalAddress) (i : Nat)
  /-- `LINE_WRITE(level)` (R61). -/
  | lineWrite (l : Level)
  /-- `LINE_READ()` (R60). -/
  | lineRead
  /-- `TIMER_ARM(d)` (R63). -/
  | timerArm (d : Nat)
  /-- `NOW()` (R64). -/
  | now
  /-- `SHOULD_ACK(dest, i)` (R65). -/
  | shouldAck (dest : LogicalAddress) (i : Nat)
  /-- `DELIVER(f)` (R66). -/
  | deliver (f : Frame)
  /-- `COMPLETE(h, result)` (R66). -/
  | complete (h : Nat) (r : CompletionResult)
  /-- `REPLY(r)` (R66). -/
  | reply (r : ReplyValue)
  /-- `LOG(InvalidState)` (R66, R286). -/
  | log
deriving DecidableEq, Repr

end Sys2Proof
end

