-- ==== Sys2Proof/Machine/Flags.lean ====
section
/-! DEFINITION. Verdicts: the flag-like computations of the engine. Band membership, well-formedness of a configuration,
the classifications of the Bus Timing Layer (40_bus_timing.md), the wired line (R62), the acknowledge verdict (R171). All
are pure functions of their arguments; none reads State. -/

namespace Sys2Proof.Machine

/-- `d in b`: both ends belong to the band (R111). -/
def inBand (d : Nat) (b : Band) : Bool := decide (b.min ≤ d ∧ d ≤ b.max)

/-- `min <= nom <= max` (R8). -/
def bandWf (b : Band) : Bool := decide (b.min ≤ b.nom ∧ b.nom ≤ b.max)

/-- A configuration is well-formed (R8). -/
def configWf (c : Config) : Bool :=
  bandWf c.startLow && bandWf c.startTotal && bandWf c.bit0Low && bandWf c.bit1Low && bandWf c.samplePoint &&
    bandWf c.bitPeriod &&
    decide (c.startLow.nom < c.startTotal.nom ∧ c.bit0Low.nom < c.bitPeriod.nom ∧
      c.bit1Low.nom ≤ c.samplePoint.nom ∧ c.samplePoint.nom ≤ c.bitPeriod.nom ∧ 1 ≤ c.maxAttempts)

/-- `FreeTimeOrderedPerSource(cfg)` (R10): a premise a claim may take; no rule reads it. -/
def freeTimeOrderedPerSource (c : Config) : Bool := decide (c.ftOwn < c.ftNew ∧ c.ftNew < c.ftRetry)

/-- `CLASSIFY_LOW(low)` (R113): the overlap of the two bands is a violation (R118). -/
def classifyLow (c : Config) (low : Nat) : PulseClass :=
  if inBand low c.bit0Low && !inBand low c.bit1Low then .bitValue 0
  else if inBand low c.bit1Low && !inBand low c.bit0Low then .bitValue 1
  else .timingViolation

/-- `CHECK_PERIOD(total)` (R114). -/
def checkPeriod (c : Config) (total : Nat) : Bool := inBand total c.bitPeriod

/-- The start test of R115. -/
def isStartPulse (c : Config) (low total : Nat) : Bool := inBand low c.startLow && inBand total c.startTotal

/-- The data test of R115. -/
def isDataPulse (c : Config) (low total : Nat) : Bool :=
  decide (classifyLow c low ≠ .timingViolation) && checkPeriod c total

/-- `CLASSIFY_PULSE(low, total)` (R115). -/
def classifyPulse (c : Config) (low total : Nat) : PulseClass :=
  if isStartPulse c low total && !isDataPulse c low total then .startBit
  else if isDataPulse c low total && !isStartPulse c low total then classifyLow c low
  else .timingViolation

/-- The resolved level of the line: the AND of this engine's output and the others' (R62). -/
def resolvedLevel (drive others : Level) : Level :=
  match drive, others with
  | .high, .high => .high
  | _, _ => .low

/-- The ACK bit value of a sampled level: 0 when the line is low (R86, R169). -/
def ackBitOf (l : Level) : Bit :=
  match l with
  | .high => 1
  | .low => 0

/-- The broadcast destination (R18, R68). -/
def broadcast : LogicalAddress := 15

/-- The verdict on a block with sampled ACK bit `a`: a broadcast is always acknowledged (R171). -/
def acked (dest : LogicalAddress) (a : Bit) : Bool := decide (dest = broadcast ∨ a = 0)

/-- The first test of `ACK_DECISION`: the hook is asked for a broadcast and for this device's address only (R209). -/
def hookConcerned (c : Config) (dest : LogicalAddress) : Bool := decide (dest = broadcast ∨ dest = c.ownAddr)

/-- A frame satisfies the invariant of R22: at most 14 payload bytes. -/
def frameWf (f : Frame) : Bool := decide (f.payload.length ≤ maxPayload)

/-- The number of an error kind (R94). -/
def errorCode : ErrorKind → Nat
  | .timingViolation => 1
  | .arbitration => 2
  | .noAcknowledge => 3
  | .truncated => 4
  | .invalidEom => 5
  | .invalidState => 6

/-- The error kind a failure reason names (R93, R94). -/
def reasonKind : FailReason → ErrorKind
  | .arbitration => .arbitration
  | .noAcknowledge => .noAcknowledge

end Sys2Proof.Machine
end

