-- ==== Sys2Proof/Machine/Operands.lean ====
section
/-! DEFINITION. Operand assembly (30_encoding.md R89), the durations the engine drives (R112, R155), and the Frame Codec
(41_frame_codec.md R131, R132, R135, R136). All are pure functions of their arguments; none reads State. -/

namespace Sys2Proof.Machine

/-- `L(v)`: the low phase driven for a bit (R112, R150). -/
def bitLow (c : Config) (v : Bit) : Nat := if v = 0 then c.bit0Low.nom else c.bit1Low.nom

/-- The low phase and the total period `DRIVE_BIT` schedules (R112); `value` is ignored for a start bit. -/
def driveLow (c : Config) (value : Bit) (isStart : Bool) : Nat := if isStart then c.startLow.nom else bitLow c value

/-- The total period `DRIVE_BIT` schedules (R112). -/
def driveTotal (c : Config) (isStart : Bool) : Nat := if isStart then c.startTotal.nom else c.bitPeriod.nom

/-- The header byte `(source << 4) | destination` (R87, R89). -/
def headerByte (f : Frame) : Byte := f.source ++ f.destination

/-- `source = hdr[7:4]` (R89). -/
def headerSource (h : Byte) : LogicalAddress := h.extractLsb' 4 4

/-- `destination = hdr[3:0]` (R89). -/
def headerDestination (h : Byte) : LogicalAddress := h.extractLsb' 0 4

/-- `rx_shift <- {rx_shift[6:0], bit}` (R89, R207). -/
def shiftIn (shift : Byte) (b : Bit) : Byte := shift.extractLsb' 0 7 ++ b

/-- `BlockPack((data, eom, ack)) = {data[7:0], eom, ack}` (R135). -/
def blockPack (data : Byte) (eom ack : Bit) : BitVec 10 := data ++ eom ++ ack

/-- `BlockUnpack(w) = (data = w[9:2], eom = w[1], ack = w[0])` (R135). -/
def blockUnpack (w : BitVec 10) : Block :=
  { data := w.extractLsb' 2 8, eom := w.extractLsb' 1 1, ack := some (w.extractLsb' 0 1) }

/-- The blocks of a byte sequence: EOM on the last one only, no ACK outcome yet (R131). -/
def blocksOfBytes : List Byte → List Block
  | [] => []
  | [b] => [{ data := b, eom := 1, ack := none }]
  | b :: c :: bs => { data := b, eom := 0, ack := none } :: blocksOfBytes (c :: bs)

/-- `ENCODE(f)`: the header block first, then the payload bytes in order (R131). -/
def encodeFrame (f : Frame) : List Block := blocksOfBytes (headerByte f :: f.payload)

/-- How many blocks have their EOM bit set. -/
def eomCount (bs : List Block) : Nat := (bs.filter (fun b => decide (b.eom = 1))).length

/-- The EOM bit of the last block is set. -/
def lastHasEom (bs : List Block) : Bool :=
  match bs.getLast? with
  | some b => decide (b.eom = 1)
  | none => false

/-- `DECODE(bs)`: the tests in the order of R132, first match wins (R137); `ack` is ignored (R134). -/
def decodeBlocks (bs : List Block) : DecodeResult :=
  if eomCount bs = 0 then .truncated
  else if 1 < eomCount bs then .invalidEom
  else if !lastHasEom bs then .invalidEom
  else if maxPayload < bs.length - 1 then .invalidEom
  else
    match bs with
    | [] => .truncated
    | h :: rest => .frame
        { source := headerSource h.data, destination := headerDestination h.data, payload := rest.map (·.data) }

/-- The number of blocks of a frame: `n = 1 + len(payload)` (R131, R150). -/
def frameBlockCount (f : Frame) : Nat := 1 + f.payload.length

/-- The value of cell `k` of a block as the initiator sends it: data bit `7 - k`, or the EOM bit for `k = 8` (R136). -/
def blockCell (b : Block) (k : Nat) : Option Bit :=
  if k < 8 then some (BitVec.ofBool (b.data.getLsbD (7 - k))) else if k = 8 then some b.eom else none

/-- `TX_BIT(i, k)` of a frame, none outside its domain (R136). -/
def frameCell (f : Frame) (i k : Nat) : Option Bit :=
  match (encodeFrame f)[i]? with
  | some b => blockCell b k
  | none => none

/-- The number of a bit. -/
def bitNumber (b : Bit) : Nat := b.toNat

/-- The number of a level: Low 0, High 1 (R21). -/
def levelNumber : Level → Nat
  | .low => 0
  | .high => 1

end Sys2Proof.Machine
end

