-- ==== Sys2Proof/WellFormed.lean ====
section
/-! DEFINITION. Which operands each operation of the table has (30_encoding.md R95, column "Selected by", and the domains
of the functions). Under a configuration, because a wire symbol is told by its durations. -/

namespace Sys2Proof

/-- The result of a completed transaction (R66): one ACK bit per block, 1 to 15 blocks (R22, R93). -/
def CompletionResult.wf : CompletionResult → Bool
  | .done acks => decide (1 ≤ acks.length ∧ acks.length ≤ maxPayload + 1)
  | .failed _ => true

/-- The operands of an operation are ones the table gives it. -/
def Instr.wf (c : Config) : Instr → Bool
  | .start low total => decide (Machine.classifyPulse c low total = .startBit)
  | .bit0 low total => decide (Machine.classifyPulse c low total = .bitValue 0)
  | .bit1 low total => decide (Machine.classifyPulse c low total = .bitValue 1)
  | .block _ => true
  | .header _ => true
  | .eFall _ => true
  | .eRise _ => true
  | .eTimer _ => true
  | .aSend f => decide (f.payload.length ≤ 15)
  | .aCancel _ => true
  | .reset => true
  | .driveBit _ _ => true
  | .classifyLow _ => true
  | .checkPeriod _ => true
  | .classifyPulse _ _ => true
  | .encode f => Machine.frameWf f
  | .decode _ => true
  | .txBit i k => decide (i ≤ 14 ∧ k ≤ 8)
  | .ackDecision _ i => decide (i ≤ 14)
  | .lineWrite _ => true
  | .lineRead => true
  | .timerArm _ => true
  | .now => true
  | .shouldAck _ i => decide (i ≤ 14)
  | .deliver f => Machine.frameWf f
  | .complete _ r => r.wf
  | .reply _ => true
  | .log => true

end Sys2Proof
end

