-- ==== Sys2Proof/Decode.lean ====
section
/-! DEFINITION. From what is presented at the engine's interfaces to an operation, and back.

30_encoding.md R95 says what selects an operation: a cell by its durations, a block or a header by its position, an event
by its tag, a function or an effect by its name. A `Record` is one of these. The spec fixes the bits of a block (R84), of
a header (R87), of an event's tag (R90) and of a frame operand (R91); the rest of a record's layout is the model's own,
DESIGN CHOICE, log 12 and log 13. -/

namespace Sys2Proof

/-- The names of the functions and effects of the operation map (R95). -/
inductive OpName where
  | driveBit
  | classifyLow
  | checkPeriod
  | classifyPulse
  | encode
  | decode
  | txBit
  | ackDecision
  | lineWrite
  | lineRead
  | timerArm
  | now
  | shouldAck
  | deliver
  | complete
  | reply
  | log
deriving DecidableEq, Repr

/-- What is presented to the dispatcher: the formats of R95. -/
inductive Record where
  /-- A bit cell on the wire, told by its two durations (R80). -/
  | cell (low total : Nat)
  /-- The bytes of a block word, the least significant first (R84). -/
  | block (bytes : List Byte)
  /-- The data byte of block 0 (R87). -/
  | header (h : Byte)
  /-- The bytes of an event: the tag byte, then the operand (R90, R91). -/
  | event (bytes : List Byte)
  /-- A function or effect called by its name, with its arguments as naturals (R95). -/
  | call (name : OpName) (args : List Nat)
deriving DecidableEq, Repr

/-- The formats of the operation map (R95). -/
inductive Format where
  | cell
  | block
  | header
  | event
  | named
deriving DecidableEq, Repr

/-- Why a record is no operation. -/
inductive DecodeError where
  /-- A cell whose durations select no symbol, or several: it is `TimingViolation` (R96), and the step says so. -/
  | illegalSymbol
  /-- A block record that is not one 10-bit word (R84, log 12). -/
  | illegalBlock
  /-- An event record with no tag byte (log 12). -/
  | noTag
  /-- Tag 6 or 7, which R97 says a decoder refuses, or a tag byte with a bit above the tag set (log 12). -/
  | reservedTag
  /-- The operand ends before the frame of `A_SEND` does (R91, log 12). -/
  | operandTruncated
  /-- The arguments of a call by name are not those of the operation (R95, log 13). -/
  | illegalArguments
deriving DecidableEq, Repr

namespace Machine

/-- The natural number whose bytes, least significant first, are given. -/
def natOfBytes : List Byte → Nat
  | [] => 0
  | b :: bs => b.toNat + 256 * natOfBytes bs

/-- The bytes of a natural number, least significant first, at most `fuel` of them and none for the leading zeros. -/
def bytesOfNatFuel : Nat → Nat → List Byte
  | 0, _ => []
  | fuel + 1, n => if n = 0 then [] else BitVec.ofNat 8 n :: bytesOfNatFuel fuel (n / 256)

/-- The bytes of a natural number, least significant first. -/
def bytesOfNat (n : Nat) : List Byte := bytesOfNatFuel n n

/-- `count` bytes of a number, least significant first. -/
def bytesOfWord : Nat → Nat → List Byte
  | 0, _ => []
  | count + 1, w => BitVec.ofNat 8 w :: bytesOfWord count (w / 256)

/-- The nibbles of a byte sequence, each byte's more significant nibble first (R91: leftmost field first). -/
def nibblesOfBytes : List Byte → List (BitVec 4)
  | [] => []
  | b :: bs => b.extractLsb' 4 4 :: b.extractLsb' 0 4 :: nibblesOfBytes bs

/-- The bytes of a nibble sequence; an odd last nibble is followed by a zero nibble. -/
def bytesOfNibbles : List (BitVec 4) → List Byte
  | [] => []
  | [h] => [h ++ (0 : BitVec 4)]
  | h :: l :: rest => (h ++ l) :: bytesOfNibbles rest

/-- `count` bytes read from nibbles, the more significant nibble first; nibbles that are not there read as zero. -/
def takeBytes : Nat → List (BitVec 4) → List Byte
  | 0, _ => []
  | count + 1, h :: l :: ns => (h ++ l) :: takeBytes count ns
  | count + 1, [h] => (h ++ (0 : BitVec 4)) :: takeBytes count []
  | count + 1, [] => 0 :: takeBytes count []

/-- The nibbles of a frame operand: `source, destination, len, payload[0], ...` (R91). -/
def nibblesOfFrame (f : Frame) : List (BitVec 4) :=
  f.source :: f.destination :: BitVec.ofNat 4 f.payload.length :: nibblesOfBytes f.payload

/-- The frame operand of `A_SEND` (R91). A length of 0 to 14 needs that many payload bytes; what follows them is no part of
the event. The reserved length 15 needs none: the request is answered `Rejected` whatever follows (R91, R151, log 16). -/
def frameOfNibbles : List (BitVec 4) → Except DecodeError Frame
  | s :: d :: len :: ns =>
    if len ≠ 15 ∧ ns.length < 2 * len.toNat then .error .operandTruncated
    else .ok { source := s, destination := d, payload := takeBytes len.toNat ns }
  | _ => .error .operandTruncated

/-- An event from its tag and its operand bytes (R90); it is selected by its tag (R95), and `RESET` has no field. -/
def decodeEvent (tag : Byte) (operand : List Byte) : Except DecodeError Instr :=
  if tag = 0 then .ok (.eFall (natOfBytes operand))
  else if tag = 1 then .ok (.eRise (natOfBytes operand))
  else if tag = 2 then .ok (.eTimer (natOfBytes operand))
  else if tag = 3 then
    match frameOfNibbles (nibblesOfBytes operand) with
    | .ok f => .ok (.aSend f)
    | .error e => .error e
  else if tag = 4 then .ok (.aCancel (natOfBytes operand))
  else if tag = 5 then .ok .reset
  else .error .reservedTag

/-- The symbol a cell's durations select (R81, R95, R96). -/
def decodeCell (c : Config) (low total : Nat) : Except DecodeError Instr :=
  match classifyPulse c low total with
  | .startBit => .ok (.start low total)
  | .bitValue b => if b = 0 then .ok (.bit0 low total) else .ok (.bit1 low total)
  | .timingViolation => .error .illegalSymbol

/-- A bit from its number. -/
def bitOfNat : Nat → Option Bit
  | 0 => some 0
  | 1 => some 1
  | _ => none

/-- A level from its number (R21). -/
def levelOfNat : Nat → Option Level
  | 0 => some .low
  | 1 => some .high
  | _ => none

/-- A boolean from its number. -/
def boolOfNat : Nat → Option Bool
  | 0 => some false
  | 1 => some true
  | _ => none

/-- A logical address from its number (R67). -/
def addressOfNat (n : Nat) : Option LogicalAddress := if n < 16 then some (BitVec.ofNat 4 n) else none

/-- Bytes from their numbers. -/
def bytesOfArgs : List Nat → Option (List Byte)
  | [] => some []
  | n :: ns =>
    if n < 256 then
      match bytesOfArgs ns with
      | some bs => some (BitVec.ofNat 8 n :: bs)
      | none => none
    else none

/-- Bits from their numbers. -/
def bitsOfArgs : List Nat → Option (List Bit)
  | [] => some []
  | n :: ns =>
    match bitOfNat n, bitsOfArgs ns with
    | some b, some bs => some (b :: bs)
    | _, _ => none

/-- A frame from its arguments: source, destination, payload bytes; at most 14 of them (R22). -/
def frameOfArgs : List Nat → Option Frame
  | s :: d :: ns =>
    match addressOfNat s, addressOfNat d, bytesOfArgs ns with
    | some s, some d, some p => if p.length ≤ maxPayload then some { source := s, destination := d, payload := p } else none
    | _, _, _ => none
  | _ => none

/-- The ACK component of a block from its number: 0, 1, or 2 for none (R21, 2 bits). -/
def ackOfNat : Nat → Option (Option Bit)
  | 0 => some (some 0)
  | 1 => some (some 1)
  | 2 => some none
  | _ => none

/-- Blocks from their arguments, three numbers each: data, EOM, ACK. -/
def blocksOfArgs : List Nat → Option (List Block)
  | [] => some []
  | d :: e :: a :: ns =>
    match bytesOfArgs [d], bitOfNat e, ackOfNat a, blocksOfArgs ns with
    | some [d], some e, some a, some bs => some ({ data := d, eom := e, ack := a } :: bs)
    | _, _, _, _ => none
  | _ => none

/-- The result of a completion from its arguments: 0 and the ACK bits, or 1 and an error code (R93, R94). -/
def completionOfArgs : List Nat → Option CompletionResult
  | 0 :: ns =>
    match bitsOfArgs ns with
    | some acks => if (CompletionResult.done acks).wf then some (.done acks) else none
    | none => none
  | [1, 2] => some (.failed .arbitration)
  | [1, 3] => some (.failed .noAcknowledge)
  | _ => none

/-- The value of a reply from its arguments: its number, and the handle of `Accepted` (R93). -/
def replyOfArgs : List Nat → Option ReplyValue
  | [0, h] => some (.accepted h)
  | [1] => some .rejected
  | [2] => some .withdrawn
  | [3] => some .notWithdrawn
  | _ => none

/-- The operation a call by name stands for, none when the arguments are not the operation's (R95). -/
def decodeCall (name : OpName) (args : List Nat) : Option Instr :=
  match name, args with
  | .driveBit, [v, s] =>
    match bitOfNat v, boolOfNat s with
    | some v, some s => some (.driveBit v s)
    | _, _ => none
  | .classifyLow, [low] => some (.classifyLow low)
  | .checkPeriod, [total] => some (.checkPeriod total)
  | .classifyPulse, [low, total] => some (.classifyPulse low total)
  | .encode, args => (frameOfArgs args).map .encode
  | .decode, args => (blocksOfArgs args).map .decode
  | .txBit, [i, k] => if i ≤ 14 ∧ k ≤ 8 then some (.txBit i k) else none
  | .ackDecision, [d, i] =>
    match addressOfNat d with
    | some d => if i ≤ 14 then some (.ackDecision d i) else none
    | none => none
  | .lineWrite, [l] => (levelOfNat l).map .lineWrite
  | .lineRead, [] => some .lineRead
  | .timerArm, [d] => some (.timerArm d)
  | .now, [] => some .now
  | .shouldAck, [d, i] =>
    match addressOfNat d with
    | some d => if i ≤ 14 then some (.shouldAck d i) else none
    | none => none
  | .deliver, args => (frameOfArgs args).map .deliver
  | .complete, h :: args => (completionOfArgs args).map (.complete h)
  | .reply, args => (replyOfArgs args).map .reply
  | .log, [6] => some .log
  | _, _ => none

end Machine

/-- The operation a record stands for under a configuration, or why it is none. -/
def decode (c : Config) : Record → Except DecodeError Instr
  | .cell low total => Machine.decodeCell c low total
  | .block [b0, b1] =>
    if Machine.natOfBytes [b0, b1] < 1024 then .ok (.block (BitVec.ofNat 10 (Machine.natOfBytes [b0, b1])))
    else .error .illegalBlock
  | .block _ => .error .illegalBlock
  | .header h => .ok (.header h)
  | .event [] => .error .noTag
  | .event (tag :: operand) => Machine.decodeEvent tag operand
  | .call name args =>
    match Machine.decodeCall name args with
    | some i => .ok i
    | none => .error .illegalArguments

namespace Machine

/-- The arguments of a frame in a call by name. -/
def argsOfFrame (f : Frame) : List Nat := f.source.toNat :: f.destination.toNat :: f.payload.map (·.toNat)

/-- The number of an ACK component: 2 for none (R21). -/
def numberOfAck : Option Bit → Nat
  | some b => b.toNat
  | none => 2

/-- The arguments of a block sequence in a call by name. -/
def argsOfBlocks : List Block → List Nat
  | [] => []
  | b :: bs => b.data.toNat :: b.eom.toNat :: numberOfAck b.ack :: argsOfBlocks bs

/-- The arguments of a completion result (R93, R94). -/
def argsOfCompletion : CompletionResult → List Nat
  | .done acks => 0 :: acks.map (·.toNat)
  | .failed r => [1, errorCode (reasonKind r)]

/-- The arguments of a reply (R93). -/
def argsOfReply : ReplyValue → List Nat
  | .accepted h => [0, h]
  | .rejected => [1]
  | .withdrawn => [2]
  | .notWithdrawn => [3]

/-- The number of a boolean. -/
def boolNumber (b : Bool) : Nat := if b then 1 else 0

end Machine

/-- The record of an operation, written from the same tables (R84, R87, R90, R91, R95). -/
def encode : Instr → Record
  | .start low total => .cell low total
  | .bit0 low total => .cell low total
  | .bit1 low total => .cell low total
  | .block w => .block (Machine.bytesOfWord 2 w.toNat)
  | .header h => .header h
  | .eFall t => .event (0 :: Machine.bytesOfNat t)
  | .eRise t => .event (1 :: Machine.bytesOfNat t)
  | .eTimer h => .event (2 :: Machine.bytesOfNat h)
  | .aSend f => .event (3 :: Machine.bytesOfNibbles (Machine.nibblesOfFrame f))
  | .aCancel p => .event (4 :: Machine.bytesOfNat p)
  | .reset => .event [5]
  | .driveBit v s => .call .driveBit [v.toNat, Machine.boolNumber s]
  | .classifyLow low => .call .classifyLow [low]
  | .checkPeriod total => .call .checkPeriod [total]
  | .classifyPulse low total => .call .classifyPulse [low, total]
  | .encode f => .call .encode (Machine.argsOfFrame f)
  | .decode bs => .call .decode (Machine.argsOfBlocks bs)
  | .txBit i k => .call .txBit [i, k]
  | .ackDecision d i => .call .ackDecision [d.toNat, i]
  | .lineWrite l => .call .lineWrite [Machine.levelNumber l]
  | .lineRead => .call .lineRead []
  | .timerArm d => .call .timerArm [d]
  | .now => .call .now []
  | .shouldAck d i => .call .shouldAck [d.toNat, i]
  | .deliver f => .call .deliver (Machine.argsOfFrame f)
  | .complete h r => .call .complete (h :: Machine.argsOfCompletion r)
  | .reply r => .call .reply (Machine.argsOfReply r)
  | .log => .call .log [Machine.errorCode .invalidState]

/-- The format a row of the table has (R95, column "format"; functions and effects are both called by name). -/
def Instr.format : Instr → Format
  | .start _ _ => .cell
  | .bit0 _ _ => .cell
  | .bit1 _ _ => .cell
  | .block _ => .block
  | .header _ => .header
  | .eFall _ => .event
  | .eRise _ => .event
  | .eTimer _ => .event
  | .aSend _ => .event
  | .aCancel _ => .event
  | .reset => .event
  | .driveBit _ _ => .named
  | .classifyLow _ => .named
  | .checkPeriod _ => .named
  | .classifyPulse _ _ => .named
  | .encode _ => .named
  | .decode _ => .named
  | .txBit _ _ => .named
  | .ackDecision _ _ => .named
  | .lineWrite _ => .named
  | .lineRead => .named
  | .timerArm _ => .named
  | .now => .named
  | .shouldAck _ _ => .named
  | .deliver _ => .named
  | .complete _ _ => .named
  | .reply _ => .named
  | .log => .named

/-- The format of a record. -/
def Record.format : Record → Format
  | .cell _ _ => .cell
  | .block _ => .block
  | .header _ => .header
  | .event _ => .event
  | .call _ _ => .named

namespace Machine

/-- How many operand bytes a table word is padded to: the longest event is `A_SEND` with 15 payload bytes. -/
def operandBytes : Nat := 17

/-- The record of a table word of `nbits` bits, the bits above them zero. A word of two bytes is a block. A word of one
byte is an event when it is a tag of three bits (the tag byte, then operand bytes of zero), else a header: the table writes
both in one byte and tells the header by its position (R95), so the header words below 8 have no table word (log 12). -/
def recordOfTableWord (nbits w : Nat) : Record :=
  if 8 < nbits ∧ nbits ≤ 16 then .block (bytesOfWord 2 w)
  else if 8 ≤ w ∧ w < 256 then .header (BitVec.ofNat 8 w)
  else .event (bytesOfWord ((nbits + 7) / 8) w ++ bytesOfWord operandBytes 0)

end Machine

/-- The operation the decoder reads from a table word; none where it refuses. The configuration is the one of
`State.reset`; blocks and events do not depend on it. -/
def decodeTableWord (nbits w : Nat) : Option Instr :=
  match decode Config.t1v (Machine.recordOfTableWord nbits w) with
  | .ok i => some i
  | .error _ => none

end Sys2Proof
end

