-- ==== Sys2Proof/Machine/State.lean ====
section
/-! DEFINITION. The architectural state of the engine (10_state.md R20 to R38) as plain data, with the inputs and outputs
of its step (00_scope.md R13), the reasons a step can stop, and the state after reset. -/

namespace Sys2Proof.Machine

/-- The stored values of `tx_state` (R25). `Retry`, `Done` and `Failed` are transient and never stored. -/
inductive TxState where
  | idle
  | waitFreeTime
  | sendStartBit
  | sendBlock
  | sampleAck
deriving DecidableEq, Repr

/-- The values of `tx_phase` (R26). -/
inductive TxPhase where
  | low
  | high
  | preSample
  | postSample
deriving DecidableEq, Repr

/-- The stored values of `rx_state` (R27). `Complete` and `Error` are transient and never stored. -/
inductive RxState where
  | idle
  | detectStart
  | receiveBlock
  | driveAck
  | skipAck
deriving DecidableEq, Repr

/-- The values of `rx_phase` (R28). -/
inductive RxPhase where
  | awaitFall
  | awaitRise
  | hold
deriving DecidableEq, Repr

/-- The free-time classes, `FtClass` (R21). -/
inductive FtClass where
  | new
  | own
  | retry
deriving DecidableEq, Repr

/-- Whose frame was the latest on the bus, `Initiator` (R21, R32). -/
inductive Initiator where
  | self
  | other
deriving DecidableEq, Repr

/-- The registers of the Transmit State Machine (R25, R26, R30). -/
structure Tx where
  /-- `tx_state` -/
  state : TxState
  /-- `tx_i`, the block being sent, 0 to 14 -/
  i : Nat
  /-- `tx_k`, the bit cell within the block, 0 to 8 -/
  k : Nat
  /-- `tx_phase` -/
  phase : TxPhase
  /-- `tx_frame`, the latched copy of the frame being sent -/
  frame : Option Frame
  /-- `tx_acks`, the ACK bits sampled so far in the current attempt -/
  acks : List Bit
  /-- `tx_attempts`, the start bits begun for the current transaction -/
  attempts : Nat
  /-- `tx_class`, the free-time class of the wait -/
  ftClass : FtClass
  /-- `tx_err`, the cause of the latest failed attempt -/
  err : Option FailReason
  /-- `tx_handle`, the handle of the current transaction -/
  handle : Option Nat
  /-- `tx_seq`, the next handle to give out -/
  seq : Nat
  /-- `tx_timer`, the handle of the timer the machine waits on -/
  timer : Option Nat
deriving DecidableEq, Repr

/-- The registers of the Receive State Machine (R27, R28, R31). -/
structure Rx where
  /-- `rx_state` -/
  state : RxState
  /-- `rx_i`, the block being received, 0 to 14 -/
  i : Nat
  /-- `rx_k`, the bits of the block already classified, 0 to 8 -/
  k : Nat
  /-- `rx_phase` -/
  phase : RxPhase
  /-- `rx_fall`, the falling edge that began the current cell -/
  fall : Option Nat
  /-- `rx_low`, the low duration of the candidate start pulse -/
  low : Option Nat
  /-- `rx_shift`, the data bits received so far -/
  shift : Byte
  /-- `rx_eom`, the EOM bit of the current block -/
  eom : Bit
  /-- `rx_blocks`, the completed blocks of the frame in progress -/
  blocks : List Block
  /-- `rx_dest`, the destination nibble of the header -/
  dest : Option LogicalAddress
  /-- `rx_timer`, the handle of the timer the machine waits on -/
  timer : Option Nat
deriving DecidableEq, Repr

/-- The bus tracker (R32). -/
structure Bus where
  /-- `drive`, the level the engine puts on the line -/
  drive : Level
  /-- `bus_idle_since`, the latest rising edge notified, or the time of reset -/
  idleSince : Nat
  /-- `bus_last_init`, whose frame was the latest -/
  lastInit : Initiator
deriving DecidableEq, Repr

/-- The model's own record of the environment's answers (R13, R36): the ones it has ready, in call order, and what bounds
the next one. Not registers of the engine. -/
structure Env where
  /-- What `LineRead` will find the other devices' outputs to be (R60, R62). -/
  levels : List Level
  /-- What `Now` will answer, but never less than `clock` (R64). -/
  times : List Nat
  /-- What `ShouldAck` will answer (R65). -/
  hooks : List Bool
  /-- How many timers have been armed; the next handle is one more (R63, R301, log 4). -/
  armed : Nat
  /-- The timestamp of the latest edge event delivered (R303). -/
  lastEdge : Nat
  /-- The latest time shown, by `Now` or by an edge event (R64, R303). -/
  clock : Nat
  /-- How many free values have been drawn (log 3); no statement rests on it. -/
  draws : Nat
deriving DecidableEq, Repr

/-- The outputs of a step (R66) and the environment reads it makes, each with its answer (R92, R102). -/
inductive Effect where
  | lineWrite (l : Level)
  | lineRead (l : Level)
  | timerArm (d : Nat) (h : Nat)
  | now (t : Nat)
  | shouldAck (dest : LogicalAddress) (i : Nat) (b : Bool)
  | deliver (f : Frame)
  | complete (h : Nat) (r : CompletionResult)
  | reply (r : ReplyValue)
  | log
deriving DecidableEq, Repr

/-- What an operation that returns a value has handed back to its caller. The model's own (log 11). -/
inductive Result where
  | nothing
  /-- A wire symbol: how its durations classify, and the durations the engine sends it with (R81). -/
  | symbol (accepted : PulseClass) (sentLow sentTotal : Nat)
  /-- The fields of a block word (R84, R135). -/
  | block (b : Block)
  /-- The fields of a header byte (R87, R89). -/
  | header (source destination : LogicalAddress)
  /-- `DRIVE_BIT`: low, high, total (R112). -/
  | drive (low high total : Nat)
  /-- `CLASSIFY_LOW`, `CLASSIFY_PULSE` (R113, R115). -/
  | pulse (c : PulseClass)
  /-- `CHECK_PERIOD` (R114), `ACK_DECISION` (R209), `SHOULD_ACK` (R65). -/
  | bool (b : Bool)
  /-- `ENCODE` (R131). -/
  | blocks (bs : List Block)
  /-- `DECODE` (R132). -/
  | decoded (r : DecodeResult)
  /-- `TX_BIT` (R136). -/
  | bit (b : Bit)
  /-- `LINE_READ` (R60). -/
  | level (l : Level)
  /-- `TIMER_ARM` (R63). -/
  | handle (h : Nat)
  /-- `NOW` (R64). -/
  | time (t : Nat)
deriving DecidableEq, Repr

/-- The state of the machine: the engine's registers (`cfg`, `tx`, `rx`, `bus`) and the model's own fields. -/
structure State where
  /-- The configuration in force, the control registers (R33). -/
  cfg : Config
  /-- The configuration the application presents; `RESET` takes it (R320, log 10). -/
  cfgIn : Config
  tx : Tx
  rx : Rx
  bus : Bus
  env : Env
  /-- The records presented and not yet handled, oldest first (R36 (c), R73, R330). -/
  inbox : List Record
  /-- The effects emitted and the reads made so far, in order (R66, R73, R92). -/
  effects : List Effect
  /-- What the last value-returning operation handed back. -/
  result : Result
deriving DecidableEq, Repr

/-- No operation of this machine faults: none of the error kinds stops the engine, and there is no fatal condition
(R280). The type has no constructor; that is safe, since every stop is a refusal below. -/
inductive Fault where
deriving DecidableEq, Repr

/-- Why a step is refused. Each is safe: the machine stops where the spec lets a model refuse. -/
inductive Refusal where
  /-- Raised by an arm of `exec` that has no meaning yet. Safe. -/
  | notModelled (mnemonic : String)
  /-- Raised by every operation that reads the configuration, and by `RESET` for the one presented to it, when the
  configuration is not well-formed: "a model refuses any other" (R8; V1 of 93_implementation_defined.md). Safe. -/
  | illFormedConfiguration
  /-- Raised by an event in a combination of registers that no run reaches, which "a model may refuse" (R39). Safe. -/
  | unreachableCombination
  /-- Raised by an edge event whose timestamp is less than that of an earlier edge: a host that breaks R303 (V3 of
  93_implementation_defined.md: refuse). Safe. -/
  | timestampDecreased
  /-- Raised by the step when the record at the head of the inbox is no operation of the map R95: an event with tag 6 or
  7, which "a decoder built on rule R90 refuses" (R97), or a record outside the model's own layout (log 12, log 13). A cell
  of no symbol is not refused: it is `TimingViolation` (R96). Safe. -/
  | notAnOperation (e : DecodeError)
deriving DecidableEq, Repr

/-- The transmit registers after reset (R38). -/
def Tx.atReset : Tx where
  state := .idle
  i := 0
  k := 0
  phase := .low
  frame := none
  acks := []
  attempts := 0
  ftClass := .new
  err := none
  handle := none
  seq := 0
  timer := none

/-- The receive registers after reset (R38). -/
def Rx.atReset : Rx where
  state := .idle
  i := 0
  k := 0
  phase := .awaitFall
  fall := none
  low := none
  shift := 0
  eom := 0
  blocks := []
  dest := none
  timer := none

/-- The bus tracker after a reset at time `t` (R38, R320). -/
def Bus.atReset (t : Nat) : Bus where
  drive := .high
  idleSince := t
  lastInit := .other

/-- The machine right after reset (R38). The time of reset is 0 (DESIGN CHOICE, log 2); the configuration is `T1v`
(PRESUMED, log 1); nothing is presented, answered or emitted yet (log 3, log 8). -/
def State.reset : State where
  cfg := Config.t1v
  cfgIn := Config.t1v
  tx := Tx.atReset
  rx := Rx.atReset
  bus := Bus.atReset 0
  env := { levels := [], times := [], hooks := [], armed := 0, lastEdge := 0, clock := 0, draws := 0 }
  inbox := []
  effects := []
  result := .nothing

end Sys2Proof.Machine
end

