-- ==== Sys2Proof/Machine/Ops.lean ====
section
/-! DEFINITION. The named operations: the access primitives of 20_memory.md, the macros of both machines, and `raise`, the
ONE operation that takes an error (00_scope.md R16; 60_exceptions.md R287, R294). -/

namespace Sys2Proof.Machine

/-! ## Updates of one part of the state -/

/-- Replace the transmit registers. -/
def setTx (x : Tx) (s : State) : State := { s with tx := x }

/-- Replace the receive registers. -/
def setRx (x : Rx) (s : State) : State := { s with rx := x }

/-- Replace the bus tracker. -/
def setBus (x : Bus) (s : State) : State := { s with bus := x }

/-- Replace the environment's answers. -/
def setEnv (x : Env) (s : State) : State := { s with env := x }

/-- Hand a value back to the caller (log 11). -/
def setResult (x : Result) (s : State) : State := { s with result := x }

/-- Emit an effect, after those already emitted (R66, R73). -/
def emit (e : Effect) (s : State) : State := { s with effects := s.effects ++ [e] }

/-! ## The access primitives (R60 to R65) -/

/-- `LineWrite(level)`: sets `drive` and emits the effect (R61). -/
def lineWrite (l : Level) (s : State) : State := emit (.lineWrite l) (setBus { s.bus with drive := l } s)

/-- The level of the other devices' outputs: the answer that is ready, else a free value (R36, R62, log 3). -/
def othersLevel (v : Env) : Level :=
  match v.levels with
  | l :: _ => l
  | [] => if Config.othersPullLow v.draws then .low else .high

/-- The environment after one answer of `LineRead`. -/
def levelAnswered (v : Env) : Env :=
  match v.levels with
  | _ :: ls => { v with levels := ls }
  | [] => { v with draws := v.draws + 1 }

/-- What `LineRead()` answers: the resolved level, `Low` whenever the engine itself pulls low (R60, R62). -/
def lineLevel (s : State) : Level := resolvedLevel s.bus.drive (othersLevel s.env)

/-- The state after `LineRead()` (R60, R92). -/
def lineRead (s : State) : State := emit (.lineRead (lineLevel s)) (setEnv (levelAnswered s.env) s)

/-- What `Now()` answers: the answer that is ready, else a free value; never less than a time already shown (R64). -/
def timeAnswer (v : Env) : Nat :=
  match v.times with
  | t :: _ => max v.clock t
  | [] => v.clock + Config.elapsed v.draws

/-- The environment after `Now` has answered `t`. -/
def timeAnswered (t : Nat) (v : Env) : Env :=
  match v.times with
  | _ :: ts => { v with times := ts, clock := t }
  | [] => { v with draws := v.draws + 1, clock := t }

/-- The state after `Now()` (R64, R92). -/
def nowRead (s : State) : State := emit (.now (timeAnswer s.env)) (setEnv (timeAnswered (timeAnswer s.env) s.env) s)

/-- The handle the next `TimerArm` returns: handles are the naturals in arming order (R301, log 4). -/
def nextHandle (s : State) : Nat := s.env.armed + 1

/-- The state after `TimerArm(d)` (R63). -/
def timerArm (d : Nat) (s : State) : State :=
  emit (.timerArm d (nextHandle s)) (setEnv { s.env with armed := nextHandle s } s)

/-- What `ShouldAck(dest, i)` answers: the answer that is ready, else a free value (R65). -/
def hookAnswer (dest : LogicalAddress) (i : Nat) (v : Env) : Bool :=
  match v.hooks with
  | b :: _ => b
  | [] => Config.hookSays dest i v.draws

/-- The environment after one answer of `ShouldAck`. -/
def hookAnswered (v : Env) : Env :=
  match v.hooks with
  | _ :: bs => { v with hooks := bs }
  | [] => { v with draws := v.draws + 1 }

/-- The state after `ShouldAck(dest, i)` (R65, R92). -/
def shouldAck (dest : LogicalAddress) (i : Nat) (s : State) : State :=
  emit (.shouldAck dest i (hookAnswer dest i s.env)) (setEnv (hookAnswered s.env) s)

/-- `tx_timer <- TimerArm(d)`. -/
def armTx (d : Nat) (s : State) : State := setTx { s.tx with timer := some (nextHandle s) } (timerArm d s)

/-- `rx_timer <- TimerArm(d)`. -/
def armRx (d : Nat) (s : State) : State := setRx { s.rx with timer := some (nextHandle s) } (timerArm d s)

/-! ## Reading the sequencers -/

/-- `TxActive`, of the transmit registers (R251). -/
def active (x : Tx) : Bool :=
  match x.state with
  | .sendStartBit => true
  | .sendBlock => true
  | .sampleAck => true
  | .idle => false
  | .waitFreeTime => false

/-- `TxActive` (R251). -/
def txActive (s : State) : Bool := active s.tx

/-- `InArbWindow()` (R165). -/
def inArbWindow (s : State) : Bool :=
  match s.tx.state with
  | .sendStartBit => true
  | .sendBlock => s.cfg.arbInHeader && decide (s.tx.i = 0)
  | .sampleAck => false
  | .idle => false
  | .waitFreeTime => false

/-- `FT(class)` (R155). -/
def freeTime (c : Config) : FtClass → Nat
  | .new => c.ftNew
  | .own => c.ftOwn
  | .retry => c.ftRetry

/-- The time from which the waiting frame may start: `bus_idle_since + FT(tx_class)` (R154, R158). -/
def freeFrom (s : State) : Nat := s.bus.idleSince + freeTime s.cfg s.tx.ftClass

/-- The cell `TX_BIT(i, k)` of the latched frame, none outside the domain (R136). -/
def latchedCell (x : Tx) (i k : Nat) : Option Bit :=
  match x.frame with
  | some f => frameCell f i k
  | none => none

/-- `TX_BIT(i, k)` (R136); outside its domain a free value (log 14). -/
def txBit (i k : Nat) (s : State) : Bit :=
  match latchedCell s.tx i k with
  | some b => b
  | none => Config.strayBit s.env.draws

/-- The number of blocks of the latched frame, 0 when there is none (R150). -/
def blockCount (x : Tx) : Nat :=
  match x.frame with
  | some f => frameBlockCount f
  | none => 0

/-- `t - rx_fall`. `rx_fall` holds a timestamp no later than `t` in every state an event is admitted in. -/
def cellTime (t : Nat) (s : State) : Nat := t - s.rx.fall.getD t

/-! ## Leaving a machine -/

/-- `RxToIdle()`: every receive register to its reset value (R216). -/
def rxToIdle (s : State) : State := setRx Rx.atReset s

/-- `RxAbort()`, D0's `Error` (R205): the line is never left held. -/
def rxAbort (s : State) : State :=
  if s.rx.state = .driveAck ∧ s.rx.phase = .hold then rxToIdle (lineWrite .high s) else rxToIdle s

/-- `TxToIdle()`: every transmit register to its reset value, `tx_seq` kept (R176). -/
def txToIdle (s : State) : State := setTx { Tx.atReset with seq := s.tx.seq } s

/-- `Complete(tx_handle, result)` (R66). -/
def completeTx (r : CompletionResult) (s : State) : State :=
  match s.tx.handle with
  | some h => emit (.complete h r) s
  | none => s

/-- The registers `EnterWait()` writes before it reads the line (R154). -/
def waitRegisters (x : Tx) : Tx := { x with state := .waitFreeTime, i := 0, k := 0, phase := .low, acks := [] }

/-- `EnterWait()`: the entry to `WaitFreeTime` (R154). -/
def enterWait (s : State) : State :=
  let s1 := setTx (waitRegisters s.tx) s
  let s2 := lineRead s1
  if lineLevel s1 = .low then setTx { s2.tx with timer := none } s2
  else armTx (freeFrom s2 - timeAnswer s2.env) (nowRead s2)

/-- `TxFailed()`, D0's `Failed`; `why` is the value of `tx_err` (R174). -/
def txFailed (why : FailReason) (s : State) : State := txToIdle (completeTx (.failed why) s)

/-- `Retry()`; `why` is the value of `tx_err` (R173). -/
def retry (why : FailReason) (s : State) : State :=
  if s.cfg.maxAttempts ≤ s.tx.attempts then txFailed why (setTx { s.tx with timer := none } s)
  else enterWait (setTx { s.tx with timer := none, ftClass := .retry } s)

/-- An attempt has failed: note the cause and whose frame was last on the bus, then `Retry()` (R171, R175). -/
def attemptFailed (why : FailReason) (last : Initiator) (s : State) : State :=
  retry why (setBus { s.bus with lastInit := last } (setTx { s.tx with err := some why } s))

/-- `ArbLoss()`: arbitration lost (R175). -/
def arbLoss (s : State) : State :=
  attemptFailed .arbitration .other (if s.bus.drive = .low then lineWrite .high s else s)

/-- `TxDone()`, D0's `Done` (R172). -/
def txDone (s : State) : State :=
  txToIdle (completeTx (.done s.tx.acks) (setBus { s.bus with lastInit := .self } s))

/-- Taking an error, for all six kinds (R16, R287): there is no entry, no saved context and no return (R294, R295). -/
def raise (e : ErrorKind) (s : State) : State :=
  match e with
  | .timingViolation => rxAbort s
  | .truncated => rxAbort s
  | .invalidEom => rxAbort s
  | .arbitration => arbLoss s
  | .noAcknowledge => attemptFailed .noAcknowledge .self s
  | .invalidState => emit .log s

/-! ## Admission of an event -/

/-- The transmit sequencer is in a legal combination (R39), and the registers its rules read hold a value. -/
def txLegal (x : Tx) : Bool :=
  match x.state with
  | .idle => decide (x.i = 0 ∧ x.k = 0 ∧ x.phase = .low)
  | .waitFreeTime => decide (x.i = 0 ∧ x.k = 0 ∧ x.phase = .low ∧ x.frame ≠ none ∧ x.handle ≠ none)
  | .sendStartBit =>
    decide (x.i = 0 ∧ x.k = 0 ∧ (x.phase = .low ∨ x.phase = .high) ∧ x.frame ≠ none ∧ x.handle ≠ none)
  | .sendBlock =>
    decide (x.i < blockCount x ∧ x.k ≤ 8 ∧ (x.phase = .low ∨ x.phase = .high) ∧ x.frame ≠ none ∧ x.handle ≠ none)
  | .sampleAck =>
    decide (x.i < blockCount x ∧ x.k = 8 ∧ x.phase ≠ .high ∧ x.frame ≠ none ∧ x.handle ≠ none ∧
      (x.phase = .postSample → x.acks ≠ []))

/-- The receive sequencer is in a legal combination (R39), and the registers its rules read hold a value. -/
def rxLegal (x : Rx) : Bool :=
  match x.state with
  | .idle => decide (x.i = 0 ∧ x.k = 0 ∧ x.phase = .awaitFall)
  | .detectStart =>
    decide (x.i = 0 ∧ x.k = 0 ∧ x.phase ≠ .hold ∧ x.fall ≠ none ∧ (x.phase = .awaitFall → x.low ≠ none))
  | .receiveBlock =>
    decide (x.i ≤ 14 ∧ x.k ≤ 8 ∧ x.phase ≠ .hold ∧ x.fall ≠ none ∧ (x.i ≠ 0 → x.dest ≠ none))
  | .driveAck => decide (x.i ≤ 14 ∧ x.k = 8 ∧ x.fall ≠ none ∧ x.dest ≠ none)
  | .skipAck => decide (x.i ≤ 14 ∧ x.k = 8 ∧ x.phase ≠ .hold ∧ x.fall ≠ none ∧ x.dest ≠ none)

/-- Both sequencers are in a legal combination (R39). -/
def legal (s : State) : Bool := txLegal s.tx && rxLegal s.rx

/-- An edge may bear the timestamp `t`: not less than an earlier edge's (R303). -/
def edgeInOrder (t : Nat) (s : State) : Bool := decide (s.env.lastEdge ≤ t ∧ s.rx.fall.getD 0 ≤ t)

/-- The environment has shown the time `t` with an edge event (R303). -/
def edgeSeen (t : Nat) (s : State) : State :=
  setEnv { s.env with lastEdge := t, clock := max s.env.clock t } s

/-- An operation that reads the configuration runs under a well-formed one only (R8). -/
def configured (s : State) (k : Host.Outcome State Fault Refusal) : Host.Outcome State Fault Refusal :=
  if configWf s.cfg then k else .refused .illFormedConfiguration

/-- An event is admitted under a well-formed configuration (R8) in a legal combination of the sequencers (R39). -/
def admitted (s : State) (k : Host.Outcome State Fault Refusal) : Host.Outcome State Fault Refusal :=
  configured s (if legal s then k else .refused .unreachableCombination)

/-- The record the step takes next, and the state without it. -/
def fetch (s : State) : Option (Record × State) :=
  match s.inbox with
  | [] => none
  | r :: rest => some (r, { s with inbox := rest })

/-- Present a record to be taken next. -/
def present (r : Record) (s : State) : State := { s with inbox := r :: s.inbox }

end Sys2Proof.Machine
end

