-- ==== Sys2Proof/Machine/Effects.lean ====
section
/-! DEFINITION. The access primitives and effects called by themselves (20_memory.md R60 to R66; 30_encoding.md R92). A
primitive that returns a value hands it back in `result` (log 11). -/

namespace Sys2Proof.Machine

/-- `LINE_WRITE(level)` (R61). -/
def execLineWrite (l : Level) (s : State) : Host.Outcome State Fault Refusal := .next (lineWrite l s)

/-- `LINE_READ()` (R60). -/
def execLineRead (s : State) : Host.Outcome State Fault Refusal :=
  .next (setResult (.level (lineLevel s)) (lineRead s))

/-- `TIMER_ARM(d)` (R63). -/
def execTimerArm (d : Nat) (s : State) : Host.Outcome State Fault Refusal :=
  .next (setResult (.handle (nextHandle s)) (timerArm d s))

/-- `NOW()` (R64). -/
def execNow (s : State) : Host.Outcome State Fault Refusal := .next (setResult (.time (timeAnswer s.env)) (nowRead s))

/-- `SHOULD_ACK(dest, i)` (R65). -/
def execShouldAck (dest : LogicalAddress) (i : Nat) (s : State) : Host.Outcome State Fault Refusal :=
  .next (setResult (.bool (hookAnswer dest i s.env)) (shouldAck dest i s))

/-- `DELIVER(f)` (R66, R216). -/
def execDeliver (f : Frame) (s : State) : Host.Outcome State Fault Refusal := .next (emit (.deliver f) s)

/-- `COMPLETE(h, result)` (R66). -/
def execComplete (h : Nat) (r : CompletionResult) (s : State) : Host.Outcome State Fault Refusal :=
  .next (emit (.complete h r) s)

/-- `REPLY(r)` (R66). -/
def execReply (r : ReplyValue) (s : State) : Host.Outcome State Fault Refusal := .next (emit (.reply r) s)

/-- `LOG(InvalidState)` (R66, R286). -/
def execLog (s : State) : Host.Outcome State Fault Refusal := .next (emit .log s)

end Sys2Proof.Machine
end

