-- ==== Sys2Proof/Machine/Receive.lean ====
section
/-! DEFINITION. The transitions of the Receive State Machine (43_receive_sm.md), as functions of the state. Which event
reaches which is in Events.lean (44_dispatch.md). -/

namespace Sys2Proof.Machine

/-- `RxIdleFall(t)`: a falling edge on an idle receiver is a candidate start bit (R201). -/
def rxIdleFall (t : Nat) (s : State) : State :=
  armRx s.cfg.rxTimeout
    (setRx { s.rx with fall := some t, low := none, state := .detectStart, phase := .awaitRise } s)

/-- An error at a falling edge: the same edge is at once a new candidate start bit (R204). -/
def raiseAndReuse (e : ErrorKind) (t : Nat) (s : State) : State := rxIdleFall t (raise e s)

/-- `ACK_DECISION(dest, i)`: the hook's answer, asked for a broadcast and for this device's address only (R209). -/
def ackDecision (dest : LogicalAddress) (i : Nat) (s : State) : Bool :=
  hookConcerned s.cfg dest && hookAnswer dest i s.env

/-- The state after `ACK_DECISION(dest, i)`: the hook is called or not (R209). -/
def ackDecided (dest : LogicalAddress) (i : Nat) (s : State) : State :=
  if hookConcerned s.cfg dest then shouldAck dest i s else s

/-- The candidate start pulse is complete and is a start bit (R203). -/
def startRecognised (t : Nat) (s : State) : State :=
  armRx s.cfg.rxTimeout
    (setRx
      { s.rx with
        state := .receiveBlock, i := 0, k := 0, shift := 0, blocks := [], fall := some t, low := none,
        phase := .awaitRise }
      (setBus { s.bus with lastInit := .other } s))

/-- A falling edge that ends the candidate start pulse (R203). `rx_low` holds a duration in every state the event is
admitted in. -/
def candidateFall (t : Nat) (s : State) : State :=
  if classifyPulse s.cfg (s.rx.low.getD 0) (cellTime t s) = .startBit then startRecognised t s
  else raiseAndReuse .timingViolation t s

/-- A falling edge that ends a cell whose period is checked, and begins one that is watched (R206, R210). -/
def cellFall (t : Nat) (s : State) : State :=
  if checkPeriod s.cfg (cellTime t s) then
    armRx s.cfg.rxTimeout (setRx { s.rx with fall := some t, phase := .awaitRise } s)
  else raiseAndReuse .timingViolation t s

/-- The falling edge of an ACK cell the engine drives (R212). -/
def driveFall (t : Nat) (s : State) : State :=
  if checkPeriod s.cfg (cellTime t s) then
    armRx s.cfg.bit0Low.nom
      (setRx { s.rx with fall := some t, phase := .hold } (lineWrite .low s))
  else raiseAndReuse .timingViolation t s

/-- The receive machine's `E_FALL` rule for (`rx_state`, `rx_phase`) (R252, table R222). -/
def rxFall (t : Nat) (s : State) : State :=
  match s.rx.state, s.rx.phase with
  | .idle, _ => rxIdleFall t s
  | .detectStart, .awaitFall => candidateFall t s
  | .receiveBlock, .awaitFall => cellFall t s
  | .skipAck, .awaitFall => cellFall t s
  | .driveAck, .awaitFall => driveFall t s
  | _, .awaitRise => raise .invalidState s
  | _, .hold => raise .invalidState s

/-- The rising edge of the candidate start pulse (R202). -/
def candidateRise (t : Nat) (s : State) : State :=
  setRx { s.rx with low := some (cellTime t s), phase := .awaitFall } s

/-- A data bit is received (R207). -/
def dataBit (b : Bit) (s : State) : State :=
  setRx { s.rx with shift := shiftIn s.rx.shift b, k := s.rx.k + 1, phase := .awaitFall } s

/-- The destination the ACK decision is made for: the header's nibble in block 0, `rx_dest` later (R208). -/
def frameDest (x : Rx) : LogicalAddress :=
  if x.i = 0 then headerDestination x.shift else x.dest.getD (headerDestination x.shift)

/-- The EOM bit is received, and the ACK cell that follows is decided on (R208, R218). -/
def eomBit (b : Bit) (s : State) : State :=
  let dest := frameDest s.rx
  let s1 := setRx { s.rx with eom := b, dest := some dest } s
  if s.rx.i = 14 ∧ b = 0 then raise .invalidEom s1
  else
    let s2 := ackDecided dest s.rx.i s1
    setRx
      { s2.rx with
        state := if ackDecision dest s.rx.i s1 then .driveAck else .skipAck, phase := .awaitFall }
      s2

/-- The rising edge of a data bit or of an EOM bit (R207, R208). -/
def cellRise (t : Nat) (s : State) : State :=
  match classifyLow s.cfg (cellTime t s) with
  | .bitValue b => if s.rx.k < 8 then dataBit b s else eomBit b s
  | .startBit => raise .timingViolation s
  | .timingViolation => raise .timingViolation s

/-- The block just completed, with ACK bit value `a` (R215). -/
def completedBlock (a : Bit) (x : Rx) : Block := { data := x.shift, eom := x.eom, ack := some a }

/-- `RxBlockDone(a)` (R215, R216). -/
def rxBlockDone (a : Bit) (s : State) : State :=
  let s1 := setRx { s.rx with blocks := s.rx.blocks ++ [completedBlock a s.rx] } s
  if s.rx.eom = 1 then
    match decodeBlocks s1.rx.blocks with
    | .frame f => rxToIdle (emit (.deliver f) s1)
    | .truncated => raise .truncated s1
    | .invalidEom => raise .invalidEom s1
  else
    setRx
      { s1.rx with
        i := s1.rx.i + 1, k := 0, shift := 0, eom := 0, state := .receiveBlock, phase := .awaitFall }
      s1

/-- The rising edge of an ACK cell the engine watches (R211). -/
def watchedRise (t : Nat) (s : State) : State :=
  match classifyLow s.cfg (cellTime t s) with
  | .bitValue a => rxBlockDone a s
  | .startBit => raise .timingViolation s
  | .timingViolation => raise .timingViolation s

/-- The receive machine's `E_RISE` rule for (`rx_state`, `rx_phase`) (R253, table R222). A driven ACK cell is not
classified (R214). -/
def rxRise (t : Nat) (s : State) : State :=
  match s.rx.state, s.rx.phase with
  | .idle, _ => raise .invalidState s
  | .detectStart, .awaitRise => candidateRise t s
  | .receiveBlock, .awaitRise => cellRise t s
  | .skipAck, .awaitRise => watchedRise t s
  | .driveAck, .awaitRise => rxBlockDone 0 s
  | _, .awaitFall => raise .invalidState s
  | _, .hold => raise .invalidState s

/-- The hold of a driven acknowledge is over (R213). -/
def holdTimer (s : State) : State :=
  armRx s.cfg.rxTimeout (setRx { s.rx with phase := .awaitRise } (lineWrite .high s))

/-- The receive machine's timer rule (R213, R217). -/
def rxTimer (s : State) : State :=
  if s.rx.state = .driveAck ∧ s.rx.phase = .hold then holdTimer s else raise .truncated s

end Sys2Proof.Machine
end

