-- ==== Sys2Proof/Machine/Transmit.lean ====
section
/-! DEFINITION. The transitions of the Transmit State Machine (42_transmit_sm.md), as functions of the state. Which event
reaches which is in Events.lean (44_dispatch.md). -/

namespace Sys2Proof.Machine

/-- `BeginBit()`: begin bit cell `tx_k` of block `tx_i` (R160). -/
def beginBit (s : State) : State :=
  armTx (bitLow s.cfg (txBit s.tx.i s.tx.k s)) (lineWrite .low (setTx { s.tx with phase := .low } s))

/-- The engine has released the line: read it, and lose arbitration if it is low (check points a and c', R165). -/
def releasedCheck (go : State → State) (s : State) : State :=
  if lineLevel s = .low then raise .arbitration (lineRead s) else go (lineRead s)

/-- The same inside the arbitration window; outside it the line is not read (R163, R164, R165). -/
def windowCheck (go : State → State) (s : State) : State := if inArbWindow s then releasedCheck go s else go s

/-- `TxStart()`: begin an attempt (R159). -/
def txStart (s : State) : State :=
  let s1 := if s.rx.state = .idle then s else rxAbort s
  armTx s1.cfg.startLow.nom
    (lineWrite .low
      (setTx { s1.tx with attempts := s1.tx.attempts + 1, acks := [], state := .sendStartBit, phase := .low } s1))

/-- The free-time timer expires (R158). -/
def waitTimer (s : State) : State :=
  let s1 := lineRead s
  if lineLevel s = .low then setTx { s1.tx with timer := none } s1
  else if freeFrom s1 ≤ timeAnswer s1.env then txStart (nowRead s1)
  else armTx (freeFrom s1 - timeAnswer s1.env) (nowRead s1)

/-- The end of the start bit's low phase (R161). -/
def startLowTimer (s : State) : State :=
  releasedCheck
    (fun s => armTx (s.cfg.startTotal.nom - s.cfg.startLow.nom) (setTx { s.tx with phase := .high } s))
    (lineWrite .high s)

/-- The end of the start bit (R162). -/
def startHighTimer (s : State) : State :=
  releasedCheck (fun s => beginBit (setTx { s.tx with state := .sendBlock, i := 0, k := 0 } s)) s

/-- The end of a bit's low phase (R163). -/
def bitLowTimer (s : State) : State :=
  windowCheck
    (fun s =>
      armTx (s.cfg.bitPeriod.nom - bitLow s.cfg (txBit s.tx.i s.tx.k s)) (setTx { s.tx with phase := .high } s))
    (lineWrite .high s)

/-- Begin the ACK cell, sent with the shape of a 1 whatever the frame (R164, R86). -/
def beginAck (s : State) : State :=
  armTx s.cfg.bit1Low.nom (lineWrite .low (setTx { s.tx with state := .sampleAck, phase := .low } s))

/-- The end of a bit cell (R164). -/
def bitHighTimer (s : State) : State :=
  windowCheck (fun s => if s.tx.k < 8 then beginBit (setTx { s.tx with k := s.tx.k + 1 } s) else beginAck s) s

/-- The end of the ACK cell's low phase as sent; the line is not read (R168). -/
def ackLowTimer (s : State) : State :=
  armTx (s.cfg.samplePoint.nom - s.cfg.bit1Low.nom)
    (setTx { s.tx with phase := .preSample } (lineWrite .high s))

/-- The sample point of the ACK cell (R169). -/
def ackSampleTimer (s : State) : State :=
  let s1 := lineRead s
  armTx (s1.cfg.bitPeriod.nom - s1.cfg.samplePoint.nom)
    (setTx { s1.tx with acks := s1.tx.acks ++ [ackBitOf (lineLevel s)], phase := .postSample } s1)

/-- The verdict on block `tx_i`, whose sampled ACK bit is `a`, of a frame `f` (R171). -/
def ackVerdict (f : Frame) (a : Bit) (s : State) : State :=
  if !acked f.destination a then raise .noAcknowledge s
  else if s.tx.i = frameBlockCount f - 1 then txDone s
  else beginBit (setTx { s.tx with i := s.tx.i + 1, k := 0, state := .sendBlock } s)

/-- The end of the ACK cell (R171). The latched frame and a sample are there in every state the event is admitted in. -/
def ackEndTimer (s : State) : State :=
  match s.tx.frame, s.tx.acks.getLast? with
  | some f, some a => ackVerdict f a s
  | _, _ => s

/-- The transmit machine's timer rule for (`tx_state`, `tx_phase`) (R254, table R179). The combinations left alone are
not legal (R39). -/
def txTimer (s : State) : State :=
  match s.tx.state, s.tx.phase with
  | .waitFreeTime, _ => waitTimer s
  | .sendStartBit, .low => startLowTimer s
  | .sendStartBit, .high => startHighTimer s
  | .sendBlock, .low => bitLowTimer s
  | .sendBlock, .high => bitHighTimer s
  | .sampleAck, .low => ackLowTimer s
  | .sampleAck, .preSample => ackSampleTimer s
  | .sampleAck, .postSample => ackEndTimer s
  | .sampleAck, .high => s
  | .sendStartBit, .preSample => s
  | .sendStartBit, .postSample => s
  | .sendBlock, .preSample => s
  | .sendBlock, .postSample => s
  | .idle, _ => s

/-- A falling edge while `TxActive` (R166): check point b of R165. -/
def txFall (s : State) : State :=
  if s.bus.drive = .low then s
  else if inArbWindow s then raise .arbitration s
  else raise .invalidState s

/-- A falling edge while waiting for the bus drops the free-time timer (R156). -/
def dropWait (s : State) : State :=
  if s.tx.state = .waitFreeTime then setTx { s.tx with timer := none } s else s

/-- A rising edge while waiting for the bus arms the whole free time anew (R157). -/
def rearmWait (s : State) : State :=
  if s.tx.state = .waitFreeTime then armTx (freeTime s.cfg s.tx.ftClass) s else s

/-- The registers an accepted `A_SEND` writes before `EnterWait()` (R151, R153). -/
def sendRegisters (f : Frame) (last : Initiator) (x : Tx) : Tx :=
  { x with
    seq := x.seq + 1, frame := some f, handle := some x.seq, attempts := 0, err := none,
    ftClass := if last = .self then .own else .new }

/-- `A_SEND(f)` (R151). -/
def onSend (f : Frame) (s : State) : State :=
  if s.tx.state ≠ .idle ∨ maxPayload < f.payload.length then emit (.reply .rejected) (raise .invalidState s)
  else enterWait (emit (.reply (.accepted s.tx.seq)) (setTx (sendRegisters f s.bus.lastInit s.tx) s))

/-- `A_CANCEL(p)` (R152). -/
def onCancel (p : Nat) (s : State) : State :=
  if s.tx.state = .waitFreeTime ∧ s.tx.attempts = 0 ∧ s.tx.handle = some p then emit (.reply .withdrawn) (txToIdle s)
  else emit (.reply .notWithdrawn) (raise .invalidState s)

end Sys2Proof.Machine
end

