-- ==== Sys2Proof/Machine/Events.lean ====
section
/-! DEFINITION. The six events: the dispatcher (44_dispatch.md R252 to R256) and reset (70_reset_and_hazards.md R320). -/

namespace Sys2Proof.Machine

/-- `E_FALL(t)` (R252). -/
def onFall (t : Nat) (s : State) : State := if txActive s then txFall s else rxFall t (dropWait s)

/-- `bus_idle_since <- t`, always first on a rising edge (R253). -/
def riseNoted (t : Nat) (s : State) : State := setBus { s.bus with idleSince := t } s

/-- `E_RISE(t)` (R253): the receiver's effects come before the transmitter's (R261). -/
def onRise (t : Nat) (s : State) : State :=
  if txActive s then riseNoted t s else rearmWait (rxRise t (riseNoted t s))

/-- `E_TIMER(h)` (R254): an expiry nobody waits on changes nothing. -/
def onTimer (h : Nat) (s : State) : State :=
  if s.tx.timer = some h then txTimer s else if s.rx.timer = some h then rxTimer s else s

/-- `RESET` (R320, R321, R322): the line is released, the configuration presented is taken, every register gets its reset
value, and the free-time clock starts now. The environment, the inbox and the effects already emitted are not the
engine's and stay (log 10). -/
def onReset (s : State) : State :=
  let s1 := lineWrite .high s
  setBus (Bus.atReset (timeAnswer s1.env)) (nowRead { s1 with cfg := s1.cfgIn, tx := Tx.atReset, rx := Rx.atReset })

/-- `E_FALL(t)` (R252). -/
def execEFall (t : Nat) (s : State) : Host.Outcome State Fault Refusal :=
  admitted s (if edgeInOrder t s then .next (onFall t (edgeSeen t s)) else .refused .timestampDecreased)

/-- `E_RISE(t)` (R253). -/
def execERise (t : Nat) (s : State) : Host.Outcome State Fault Refusal :=
  admitted s (if edgeInOrder t s then .next (onRise t (edgeSeen t s)) else .refused .timestampDecreased)

/-- `E_TIMER(h)` (R254). -/
def execETimer (h : Nat) (s : State) : Host.Outcome State Fault Refusal := admitted s (.next (onTimer h s))

/-- `A_SEND(f)` (R151, R255). -/
def execASend (f : Frame) (s : State) : Host.Outcome State Fault Refusal := admitted s (.next (onSend f s))

/-- `A_CANCEL(p)` (R152, R255). -/
def execACancel (p : Nat) (s : State) : Host.Outcome State Fault Refusal := admitted s (.next (onCancel p s))

/-- `RESET` (R256, R320): legal in every state; only an ill-formed configuration presented to it is refused (R8). -/
def execReset (s : State) : Host.Outcome State Fault Refusal :=
  if configWf s.cfgIn then .next (onReset s) else .refused .illFormedConfiguration

end Sys2Proof.Machine
end

