-- ==== Sys2Proof/Machine/Functions.lean ====
section
/-! DEFINITION. The functions of the engine called by themselves: the Bus Timing Layer (40_bus_timing.md), the Frame Codec
(41_frame_codec.md) and `ACK_DECISION` (43_receive_sm.md R209). Their value goes to `result` (log 11). Those that read the
configuration run under a well-formed one only (R8). -/

namespace Sys2Proof.Machine

/-- `DRIVE_BIT(value, is_start) -> (low, high, total)` (R112). -/
def execDriveBit (value : Bit) (isStart : Bool) (s : State) : Host.Outcome State Fault Refusal :=
  configured s (.next (setResult
    (.drive (driveLow s.cfg value isStart) (driveTotal s.cfg isStart - driveLow s.cfg value isStart)
      (driveTotal s.cfg isStart)) s))

/-- `CLASSIFY_LOW(low)` (R113). -/
def execClassifyLow (low : Nat) (s : State) : Host.Outcome State Fault Refusal :=
  configured s (.next (setResult (.pulse (classifyLow s.cfg low)) s))

/-- `CHECK_PERIOD(total)` (R114). -/
def execCheckPeriod (total : Nat) (s : State) : Host.Outcome State Fault Refusal :=
  configured s (.next (setResult (.bool (checkPeriod s.cfg total)) s))

/-- `CLASSIFY_PULSE(low, total)` (R115). -/
def execClassifyPulse (low total : Nat) (s : State) : Host.Outcome State Fault Refusal :=
  configured s (.next (setResult (.pulse (classifyPulse s.cfg low total)) s))

/-- `ENCODE(f)` (R131). -/
def execEncode (f : Frame) (s : State) : Host.Outcome State Fault Refusal :=
  .next (setResult (.blocks (encodeFrame f)) s)

/-- `DECODE(bs)` (R132). -/
def execDecode (bs : List Block) (s : State) : Host.Outcome State Fault Refusal :=
  .next (setResult (.decoded (decodeBlocks bs)) s)

/-- After `TX_BIT(i, k)`: a free value drawn outside the domain is not drawn again (log 14). -/
def txBitDrawn (i k : Nat) (s : State) : State :=
  match latchedCell s.tx i k with
  | some _ => s
  | none => setEnv { s.env with draws := s.env.draws + 1 } s

/-- `TX_BIT(i, k)` (R136). -/
def execTxBit (i k : Nat) (s : State) : Host.Outcome State Fault Refusal :=
  .next (setResult (.bit (txBit i k s)) (txBitDrawn i k s))

/-- `ACK_DECISION(dest, i)` (R209). -/
def execAckDecision (dest : LogicalAddress) (i : Nat) (s : State) : Host.Outcome State Fault Refusal :=
  configured s (.next (setResult (.bool (ackDecision dest i s)) (ackDecided dest i s)))

end Sys2Proof.Machine
end

