-- ==== Sys2Proof/Machine/Wire.lean ====
section
/-! DEFINITION. The wire formats `START`, `BIT0`, `BIT1`, `BLOCK`, `HEADER` (30_encoding.md R80 to R89). Each reads what
the format says and hands it back in `result` (log 11, log 15): the engine never receives a symbol or a word whole, it
receives edges (20_memory.md R78, 43_receive_sm.md R200), which are the events of Events.lean. A record that is none of
the operations ends here too. -/

namespace Sys2Proof.Machine

/-- A wire symbol: how its durations are accepted (R115), and the durations the engine sends it with (R112): one row of
the table of R81. -/
def readSymbol (low total : Nat) (value : Bit) (isStart : Bool) (s : State) : Host.Outcome State Fault Refusal :=
  configured s (.next (setResult
    (.symbol (classifyPulse s.cfg low total) (driveLow s.cfg value isStart) (driveTotal s.cfg isStart)) s))

/-- `START` (R81, R115). -/
def execStart (low total : Nat) (s : State) : Host.Outcome State Fault Refusal := readSymbol low total 0 true s

/-- `BIT0` (R81, R115). -/
def execBit0 (low total : Nat) (s : State) : Host.Outcome State Fault Refusal := readSymbol low total 0 false s

/-- `BIT1` (R81, R115). -/
def execBit1 (low total : Nat) (s : State) : Host.Outcome State Fault Refusal := readSymbol low total 1 false s

/-- A cell whose durations select no symbol, or several: it is `TimingViolation`, never a best guess (R96, R115). -/
def illegalSymbol (s : State) : Host.Outcome State Fault Refusal :=
  configured s (.next (setResult (.pulse .timingViolation) s))

/-- A record that is no operation of the map R95. What the spec gives an effect has it; the rest is refused (R97; log 12,
log 13). -/
def undecoded (e : DecodeError) (s : State) : Host.Outcome State Fault Refusal :=
  match e with
  | .illegalSymbol => illegalSymbol s
  | .illegalBlock => .refused (.notAnOperation .illegalBlock)
  | .noTag => .refused (.notAnOperation .noTag)
  | .reservedTag => .refused (.notAnOperation .reservedTag)
  | .operandTruncated => .refused (.notAnOperation .operandTruncated)
  | .illegalArguments => .refused (.notAnOperation .illegalArguments)

/-- `BLOCK`: the three fields of the word (R84, R135). -/
def execBlock (w : BitVec 10) (s : State) : Host.Outcome State Fault Refusal :=
  .next (setResult (.block (blockUnpack w)) s)

/-- `HEADER`: the two nibbles of the byte (R87, R89). -/
def execHeader (h : Byte) (s : State) : Host.Outcome State Fault Refusal :=
  .next (setResult (.header (headerSource h) (headerDestination h)) s)

end Sys2Proof.Machine
end

