-- ==== Sys2Proof/Machine/Dispatch.lean ====
section
/-! DEFINITION. The meaning of every operation of the map R95, one arm each. -/

namespace Sys2Proof.Machine

def exec (i : Instr) (s : State) : Host.Outcome State Fault Refusal :=
  match i with
  | .start low total => Sys2Proof.Machine.execStart low total s
  | .bit0 low total => Sys2Proof.Machine.execBit0 low total s
  | .bit1 low total => Sys2Proof.Machine.execBit1 low total s
  | .block w => Sys2Proof.Machine.execBlock w s
  | .header h => Sys2Proof.Machine.execHeader h s
  | .eFall t => Sys2Proof.Machine.execEFall t s
  | .eRise t => Sys2Proof.Machine.execERise t s
  | .eTimer h => Sys2Proof.Machine.execETimer h s
  | .aSend f => Sys2Proof.Machine.execASend f s
  | .aCancel p => Sys2Proof.Machine.execACancel p s
  | .reset => Sys2Proof.Machine.execReset s
  | .driveBit value isStart => Sys2Proof.Machine.execDriveBit value isStart s
  | .classifyLow low => Sys2Proof.Machine.execClassifyLow low s
  | .checkPeriod total => Sys2Proof.Machine.execCheckPeriod total s
  | .classifyPulse low total => Sys2Proof.Machine.execClassifyPulse low total s
  | .encode f => Sys2Proof.Machine.execEncode f s
  | .decode bs => Sys2Proof.Machine.execDecode bs s
  | .txBit j k => Sys2Proof.Machine.execTxBit j k s
  | .ackDecision dest j => Sys2Proof.Machine.execAckDecision dest j s
  | .lineWrite l => Sys2Proof.Machine.execLineWrite l s
  | .lineRead => Sys2Proof.Machine.execLineRead s
  | .timerArm d => Sys2Proof.Machine.execTimerArm d s
  | .now => Sys2Proof.Machine.execNow s
  | .shouldAck dest j => Sys2Proof.Machine.execShouldAck dest j s
  | .deliver f => Sys2Proof.Machine.execDeliver f s
  | .complete h r => Sys2Proof.Machine.execComplete h r s
  | .reply r => Sys2Proof.Machine.execReply r s
  | .log => Sys2Proof.Machine.execLog s

end Sys2Proof.Machine
end

