-- ==== Sys2Proof/Machine/Step.lean ====
section
/-! DEFINITION. The step: one record is taken from the inbox, decoded and executed (44_dispatch.md R250, 20_memory.md
R73). -/

namespace Sys2Proof.Machine

/-- One step. With nothing presented the engine does nothing (R308); a record that is no operation is
`TimingViolation` (R96) or refused (R97). -/
def step (s : State) : Host.Outcome State Fault Refusal :=
  match fetch s with
  | none => .next s
  | some (r, rest) =>
    match decode rest.cfg r with
    | .ok i => exec i rest
    | .error e => undecoded e rest

/-- `s` with a table word presented, so that the next step takes and runs it (log 8). -/
def State.withFetchWord (s : State) (nbits w : Nat) : State := present (recordOfTableWord nbits w) s

end Sys2Proof.Machine
end

