-- ==== Sys2Proof/Safety.lean ====
section
/-! DEFINITION. What a run keeps (10_state.md R37, R39, with what makes it inductive) and the conditions under which an
operation executes, in the terms the statements use. -/

namespace Sys2Proof.Machine

/-- `d in band`: both ends belong to the band (R14, R111). -/
def within (d : Nat) (b : Band) : Prop := b.min ≤ d ∧ d ≤ b.max

/-- `InArbWindow()` (R165). -/
abbrev InWindow (s : State) : Prop :=
  s.tx.state = .sendStartBit ∨ (s.cfg.arbInHeader = true ∧ s.tx.state = .sendBlock ∧ s.tx.i = 0)

/-- The byte of block `i` of a frame: the header, then the payload (R131). -/
def byteOf (f : Frame) (i : Nat) : Byte :=
  if i = 0 then (f.source.setWidth 8 <<< 4) ||| f.destination.setWidth 8 else f.payload.getD (i - 1) 0

/-- The value of cell `k` of block `i` of a frame, as the initiator sends it (R136). -/
def cellOf (f : Frame) (i k : Nat) : Bit :=
  if k < 8 then BitVec.ofBool ((byteOf f i).getLsbD (7 - k)) else if i = f.payload.length then 1 else 0

/-- The condition under which an event executes: the configuration is well-formed (R8) and the sequencers are in a legal
combination (R39). -/
abbrev Ready (s : State) : Prop := configWf s.cfg = true ∧ legal s = true

/-- The condition under which an edge event with timestamp `t` executes (R8, R39, R303). -/
abbrev EdgeReady (t : Nat) (s : State) : Prop := Ready s ∧ edgeInOrder t s = true

/-- The expiry of timer `h` is the transmitter's (R254), in a given sequencer state. -/
abbrev TxTimerIn (state : TxState) (phase : TxPhase) (h : Nat) (s : State) : Prop :=
  Ready s ∧ s.tx.timer = some h ∧ s.tx.state = state ∧ s.tx.phase = phase

/-- An edge with timestamp `t` reaches the receiver in a given sequencer state (R252, R253). -/
abbrev RxEdgeIn (state : RxState) (phase : RxPhase) (t : Nat) (s : State) : Prop :=
  EdgeReady t s ∧ txActive s = false ∧ s.rx.state = state ∧ s.rx.phase = phase

/-- What a falling edge that reaches the receiver does to the transmit registers: a frame waiting for the bus loses its
free-time timer (R156). -/
def waitDropped (x : Tx) : Tx := if x.state = .waitFreeTime then { x with timer := none } else x

/-- What a rising edge that reaches the receiver does after the receiver's own effects: a frame waiting for the bus arms the
whole free time of its class (R157, R155, R253). -/
def waitRearmed (s : State) : State :=
  if s.tx.state = .waitFreeTime then
    { s with
      tx := { s.tx with timer := some (s.env.armed + 1) },
      env := { s.env with armed := s.env.armed + 1 },
      effects :=
        s.effects ++
          [.timerArm
            (match s.tx.ftClass with
              | .new => s.cfg.ftNew
              | .own => s.cfg.ftOwn
              | .retry => s.cfg.ftRetry)
            (s.env.armed + 1)] }
  else s

/-- A block of the frame in progress is being received: the states I6 of R37 names. -/
def inBlock (x : Rx) : Bool :=
  match x.state with
  | .idle => false
  | .detectStart => false
  | .receiveBlock => true
  | .driveAck => true
  | .skipAck => true

/-- The EOM bit of the current block is in (R208). -/
def eomSeen (x : Rx) : Bool :=
  match x.state with
  | .idle => false
  | .detectStart => false
  | .receiveBlock => false
  | .driveAck => true
  | .skipAck => true

/-- How many ACK bits the current attempt has sampled (R30): one per completed ACK cell, and the current cell's once its
sample point is past. -/
def acksExpected (x : Tx) : Nat := if x.phase = .postSample then x.i + 1 else x.i

/-- What the rules keep of the transmit registers, under a configuration and a number of timers armed. -/
structure TxInv (c : Config) (armed : Nat) (x : Tx) : Prop where
  /-- R39 -/
  legalOk : txLegal x = true
  /-- I3 -/
  idleClear : x.state = .idle → x = { Tx.atReset with seq := x.seq }
  /-- I5 -/
  budget : x.state ≠ .idle → x.attempts ≤ c.maxAttempts
  /-- I5 -/
  begun : active x = true → 1 ≤ x.attempts
  /-- I5 -/
  waiting : x.state = .waitFreeTime → x.attempts < c.maxAttempts
  /-- I5, R22 -/
  frameFits : ∀ f ∈ x.frame, frameWf f = true
  /-- I7 -/
  timed : active x = true → x.timer ≠ none
  /-- One ACK bit per completed ACK cell (R30). -/
  acksSoFar : x.acks.length = acksExpected x
  /-- The timer waited on was armed (R301). -/
  timerArmed : ∀ h ∈ x.timer, h ≤ armed
  /-- The pending handle was given out (R151, R336). -/
  handleGiven : ∀ h ∈ x.handle, h < x.seq

/-- What the rules keep of the receive registers, under a configuration, a number of timers armed and the timestamp of the
latest edge. -/
structure RxInv (c : Config) (armed : Nat) (lastEdge : Nat) (x : Rx) : Prop where
  /-- R39 -/
  legalOk : rxLegal x = true
  /-- I4 -/
  idleClear : x.state = .idle → x = Rx.atReset
  /-- I6 -/
  blocksSoFar : inBlock x = true → x.blocks.length = x.i
  /-- The receiver always waits on a time-out or on the end of its hold while it is not idle (R217). -/
  timed : x.state ≠ .idle → x.timer ≠ none
  /-- Only a last block has its EOM bit set, and the frame ends there (R85, R215). -/
  noEomYet : ∀ b ∈ x.blocks, b.eom = 0
  /-- A fifteenth block is the last (R218). -/
  lengthLimit : eomSeen x = true → x.i = 14 → x.eom = 1
  /-- `rx_dest` is the destination nibble of the header (R31, R208). -/
  destOfHeader : inBlock x = true → ∀ b ∈ x.blocks.head?, x.dest = some (headerDestination b.data)
  /-- The same while the header block's ACK cell is in progress. -/
  destOfShift : eomSeen x = true → x.i = 0 → x.dest = some (headerDestination x.shift)
  /-- Only an addressed or a broadcast frame's ACK cell is driven (R209). -/
  drivenIfConcerned : x.state = .driveAck → ∀ d ∈ x.dest, hookConcerned c d = true
  /-- The timer waited on was armed (R301). -/
  timerArmed : ∀ h ∈ x.timer, h ≤ armed
  /-- The falling edge of the current cell was delivered (R303). -/
  fallSeen : ∀ t ∈ x.fall, t ≤ lastEdge

/-- The invariants of R37 but I2, with the legal combinations of R39 and what the rules need beside them. -/
structure StateInv (s : State) : Prop where
  /-- R8 -/
  configOk : configWf s.cfg = true
  /-- The transmit registers. -/
  txOk : TxInv s.cfg s.env.armed s.tx
  /-- The receive registers. -/
  rxOk : RxInv s.cfg s.env.armed s.env.lastEdge s.rx
  /-- I1 -/
  halfDuplex : txActive s = true → s.rx.state = .idle
  /-- The two machines never wait on one handle (R254). -/
  timersApart : ∀ h ∈ s.tx.timer, s.rx.timer ≠ some h
  /-- `Now` answers no less than a delivered edge's timestamp (R64, R303). -/
  clockSeen : s.env.lastEdge ≤ s.env.clock

/-- I2 of R37: the engine holds the line only in the low phase of a cell it sends or in an acknowledge it drives. -/
abbrev DriveInv (s : State) : Prop :=
  s.bus.drive = .low →
    (txActive s = true ∧ s.tx.phase = .low) ∨ (s.rx.state = .driveAck ∧ s.rx.phase = .hold)

end Sys2Proof.Machine
end

