-- ==== Sys2Proof/Certificates/Slice0/Obligations.lean ====
section
/-! DEFINITION. The statements for the provers. A statement whose conclusion is `exec … = .next { s with … }` says the
operation's result, that it completes, and its frame at once: every register the update does not name is unchanged. The
model's own fields in it (`env`, `effects`, `result`, `inbox`) are those of log 3, 4, 8, 9 and 11. -/

open Sys2Proof Sys2Proof.Machine

/-! ## Encodings and the step -/

/-- Decode and encode agree on every well-formed operation, under every configuration (R81, R84, R87, R90, R91, R95; the
layout of records is the model's, log 12 and log 13). -/
def Obligations.DecodeOfEncode : Prop :=
  ∀ (c : Config) (i : Instr), i.wf c = true → decode c (encode i) = .ok i

/-- What the decoder gives is well-formed: each operation has the operands the table gives it (R95). -/
def Obligations.DecodedIsWellFormed : Prop :=
  ∀ (c : Config) (r : Record) (i : Instr), decode c r = .ok i → i.wf c = true

/-- A cell record is a symbol exactly when its durations match one row of the table R81 and no other (R95, R96). -/
def Obligations.CellIsItsOnlyRow : Prop :=
  ∀ (c : Config) (low total : Nat),
    let start := within low c.startLow ∧ within total c.startTotal
    let bit0 := (within low c.bit0Low ∧ ¬within low c.bit1Low) ∧ within total c.bitPeriod
    let bit1 := (within low c.bit1Low ∧ ¬within low c.bit0Low) ∧ within total c.bitPeriod
    (decode c (.cell low total) = .ok (.start low total) ↔ start ∧ ¬bit0 ∧ ¬bit1) ∧
    (decode c (.cell low total) = .ok (.bit0 low total) ↔ bit0 ∧ ¬start) ∧
    (decode c (.cell low total) = .ok (.bit1 low total) ↔ bit1 ∧ ¬start) ∧
    (decode c (.cell low total) = .error .illegalSymbol ↔
      ¬((start ∧ ¬bit0 ∧ ¬bit1) ∨ (bit0 ∧ ¬start) ∨ (bit1 ∧ ¬start)))

/-- A few words written from the encodings: the event tags 0 to 5 and the reserved tags 6 and 7 (R90, R97), the operand of
`A_SEND` for the frame of program P1 (R91), the block 0x0DB (R84), a header byte (R87). -/
def Obligations.WordsOfTheEncodingTables : Prop :=
  decodeTableWord 8 0 = some (.eFall 0) ∧ decodeTableWord 8 1 = some (.eRise 0) ∧
  decodeTableWord 8 2 = some (.eTimer 0) ∧
  decodeTableWord 8 3 = some (.aSend { source := 0, destination := 0, payload := [] }) ∧
  decodeTableWord 8 4 = some (.aCancel 0) ∧ decodeTableWord 8 5 = some .reset ∧
  decodeTableWord 8 6 = none ∧ decodeTableWord 8 7 = none ∧
  decode Config.t1v (.event [0x03, 0xFF, 0x13, 0x60]) =
    .ok (.aSend { source := 15, destination := 15, payload := [0x36] }) ∧
  decodeTableWord 16 0x0DB = some (.block 0b0011011011) ∧ decode Config.t1v (.header 0x4F) = .ok (.header 0x4F)

/-- A step takes the oldest record presented and runs the operation it decodes to (R73, R250). -/
def Obligations.StepRunsTheDecodedOperation : Prop :=
  ∀ (s : State) (r : Record) (rest : List Record) (i : Instr),
    s.inbox = r :: rest → decode s.cfg r = .ok i → i.wf s.cfg = true →
      step s = exec i { s with inbox := rest }

/-- With nothing presented a step does nothing (R308). A cell of no symbol is `TimingViolation` (R96), and changes no
register. Every other record that is no operation is refused, an event with a tag above 5 as a reserved tag: for the tags 6
and 7 that is R97; that tag bytes 8 to 255 and every other record outside the model's own layout are refused is the
model's choice (log 12, log 13), and so are the inbox and the result field (log 8, log 11). -/
def Obligations.StepWithoutOperation : Prop :=
  (∀ s : State, s.inbox = [] → step s = .next s) ∧
  (∀ (s : State) (low total : Nat) (rest : List Record),
    s.inbox = .cell low total :: rest → configWf s.cfg = true →
      classifyPulse s.cfg low total = .timingViolation →
        step s = .next { s with inbox := rest, result := .pulse .timingViolation }) ∧
  (∀ (s : State) (r : Record) (rest : List Record) (e : DecodeError),
    s.inbox = r :: rest → decode s.cfg r = .error e → e ≠ .illegalSymbol →
      step s = .refused (.notAnOperation e)) ∧
  (∀ (s : State) (tag : Byte) (operand : List Byte) (rest : List Record),
    s.inbox = .event (tag :: operand) :: rest → 6 ≤ tag.toNat →
      step s = .refused (.notAnOperation .reservedTag))

/-! ## Invariants and rules of the whole machine -/

/-- The reset state has the registers of R38 and satisfies the invariants. The time of reset and the configuration are the
model's choice (log 1, log 2); nothing here rests on them but `configOk`. -/
def Obligations.ResetState : Prop :=
  StateInv State.reset ∧ DriveInv State.reset ∧
  State.reset.tx =
    { state := .idle, i := 0, k := 0, phase := .low, frame := none, acks := [], attempts := 0, ftClass := .new,
      err := none, handle := none, seq := 0, timer := none } ∧
  State.reset.rx =
    { state := .idle, i := 0, k := 0, phase := .awaitFall, fall := none, low := none, shift := 0, eom := 0,
      blocks := [], dest := none, timer := none } ∧
  State.reset.bus.drive = .high ∧ State.reset.bus.lastInit = .other

/-- Every step keeps the invariants of R37 (I1, I3 to I7), the legal combinations of R39 and what they need. -/
def Obligations.StepKeepsInvariants : Prop :=
  ∀ s t : State, StateInv s → step s = .next t → StateInv t

/-- Every step keeps I2 of R37, but for a `LINE_WRITE(Low)` presented by itself, which no transition makes (log 18). -/
def Obligations.StepKeepsDriveInvariant : Prop :=
  ∀ s t : State, StateInv s → DriveInv s →
    (∀ (r : Record) (rest : List Record), s.inbox = r :: rest → decode s.cfg r ≠ .ok (.lineWrite .low)) →
      step s = .next t → DriveInv t

/-- No event is refused in a state the invariants allow: every pair has a result (R250). An edge must not bear a timestamp
before an earlier edge's (R303), a reset must be given a well-formed configuration (R8). -/
def Obligations.EveryEventHasAResult : Prop :=
  ∀ s : State, StateInv s →
    (∀ f, ∃ t, exec (.aSend f) s = .next t) ∧ (∀ p, ∃ t, exec (.aCancel p) s = .next t) ∧
    (∀ h, ∃ t, exec (.eTimer h) s = .next t) ∧
    (∀ u, s.env.lastEdge ≤ u → (∃ t, exec (.eFall u) s = .next t) ∧ (∃ t, exec (.eRise u) s = .next t)) ∧
    (configWf s.cfgIn = true → ∃ t, exec .reset s = .next t)

/-- While the transmitter is active, no event of its own, no edge and no request touches the receiver (R251, R252,
R253). -/
def Obligations.ReceiverUntouchedWhileTransmitting : Prop :=
  ∀ (i : Instr) (s t : State), txActive s = true → exec i s = .next t →
    (match i with
      | .eFall _ => True
      | .eRise _ => True
      | .aSend _ => True
      | .aCancel _ => True
      | .eTimer h => s.tx.timer = some h
      | _ => False) →
      t.rx = s.rx

/-- The configuration in force changes only at `RESET` (R7, R77), which takes the one presented; no operation changes the
one presented or what is still to be handled; effects are emitted after those already there (R73). -/
def Obligations.ConfigurationFixedEffectsInOrder : Prop :=
  ∀ (i : Instr) (s t : State), exec i s = .next t →
    (i ≠ .reset → t.cfg = s.cfg) ∧ (i = .reset → t.cfg = s.cfgIn) ∧ t.cfgIn = s.cfgIn ∧ t.inbox = s.inbox ∧
      s.effects <+: t.effects

/-- Two registers that one event moves: only `A_SEND` advances the handle counter, by one and on acceptance (R151), and only
`E_RISE` moves `bus_idle_since`, to its timestamp (R32, R253). `RESET` is the exception to both. -/
def Obligations.HandleCounterAndIdleSince : Prop :=
  ∀ (i : Instr) (s t : State), i ≠ .reset → exec i s = .next t →
    (t.tx.seq = s.tx.seq ∨
      ∃ f, i = .aSend f ∧ t.tx.seq = s.tx.seq + 1 ∧
        .reply (.accepted s.tx.seq) ∈ t.effects.drop s.effects.length) ∧
    (∀ u, i = .eRise u → t.bus.idleSince = u) ∧ ((∀ u, i ≠ .eRise u) → t.bus.idleSince = s.bus.idleSince)

/-- A frame is delivered by a rising edge only, at most once in a step (R216); a transaction is completed by a timer expiry
or a falling edge only (R171, R166). `DELIVER` and `COMPLETE` presented by themselves are the two exceptions. -/
def Obligations.WhenTheApplicationIsTold : Prop :=
  ∀ (i : Instr) (s t : State), exec i s = .next t →
    (∀ f, .deliver f ∈ t.effects.drop s.effects.length →
      ((∃ u, i = .eRise u) ∨ i = .deliver f) ∧ (t.effects.drop s.effects.length).count (.deliver f) = 1) ∧
    (∀ p r, .complete p r ∈ t.effects.drop s.effects.length →
      (∃ h, i = .eTimer h) ∨ (∃ u, i = .eFall u) ∨ i = .complete p r)

/-- A falling edge makes the engine pull the line low only in the ACK cell of a frame addressed to it or broadcast: an
unaddressed unicast frame never drives ACK (R209). -/
def Obligations.UnaddressedNeverAcknowledged : Prop :=
  ∀ (u : Nat) (s t : State), StateInv s → exec (.eFall u) s = .next t →
    s.bus.drive = .high → t.bus.drive = .low →
      s.rx.state = .driveAck ∧ ∃ d, s.rx.dest = some d ∧ (d = 15 ∨ d = s.cfg.ownAddr)

/-! ## Where an operation stops -/

/-- A configuration is well-formed exactly as R8 lists, the differences the rules arm as durations are then natural, and an
operation that reads an ill-formed one is refused (which operations those are is the model's reading, log 6). -/
def Obligations.IllFormedConfigurationRefused : Prop :=
  (∀ c : Config, configWf c = true ↔
    (∀ b ∈ [c.startLow, c.startTotal, c.bit0Low, c.bit1Low, c.samplePoint, c.bitPeriod],
      b.min ≤ b.nom ∧ b.nom ≤ b.max) ∧
    c.startLow.nom < c.startTotal.nom ∧ c.bit0Low.nom < c.bitPeriod.nom ∧
    (c.bit1Low.nom ≤ c.samplePoint.nom ∧ c.samplePoint.nom ≤ c.bitPeriod.nom) ∧ 1 ≤ c.maxAttempts) ∧
  (∀ c : Config, configWf c = true →
    c.startLow.nom ≤ c.startTotal.nom ∧ c.bit0Low.nom ≤ c.bitPeriod.nom ∧ c.bit1Low.nom ≤ c.bitPeriod.nom ∧
    c.bit1Low.nom ≤ c.samplePoint.nom ∧ c.samplePoint.nom ≤ c.bitPeriod.nom) ∧
  (∀ s : State, configWf s.cfg = false →
    (∀ u, exec (.eFall u) s = .refused .illFormedConfiguration) ∧
    (∀ u, exec (.eRise u) s = .refused .illFormedConfiguration) ∧
    (∀ h, exec (.eTimer h) s = .refused .illFormedConfiguration) ∧
    (∀ f, exec (.aSend f) s = .refused .illFormedConfiguration) ∧
    (∀ p, exec (.aCancel p) s = .refused .illFormedConfiguration) ∧
    (∀ low total, exec (.start low total) s = .refused .illFormedConfiguration) ∧
    (∀ low total, exec (.bit0 low total) s = .refused .illFormedConfiguration) ∧
    (∀ low total, exec (.bit1 low total) s = .refused .illFormedConfiguration) ∧
    (∀ v b, exec (.driveBit v b) s = .refused .illFormedConfiguration) ∧
    (∀ low, exec (.classifyLow low) s = .refused .illFormedConfiguration) ∧
    (∀ total, exec (.checkPeriod total) s = .refused .illFormedConfiguration) ∧
    (∀ low total, exec (.classifyPulse low total) s = .refused .illFormedConfiguration) ∧
    (∀ d i, exec (.ackDecision d i) s = .refused .illFormedConfiguration)) ∧
  (∀ s : State, configWf s.cfgIn = false → exec .reset s = .refused .illFormedConfiguration)

/-- An event in a combination of the sequencers that R39 does not list is refused, and so is an edge whose timestamp is
before an earlier edge's (R303). Both are the model's choice among what the spec allows (log 5, log 6). -/
def Obligations.UnreachableAndDisorderRefused : Prop :=
  (∀ s : State, configWf s.cfg = true → legal s = false →
    (∀ u, exec (.eFall u) s = .refused .unreachableCombination) ∧
    (∀ u, exec (.eRise u) s = .refused .unreachableCombination) ∧
    (∀ h, exec (.eTimer h) s = .refused .unreachableCombination) ∧
    (∀ f, exec (.aSend f) s = .refused .unreachableCombination) ∧
    (∀ p, exec (.aCancel p) s = .refused .unreachableCombination)) ∧
  (∀ (s : State) (u : Nat), Ready s → u < s.env.lastEdge →
    exec (.eFall u) s = .refused .timestampDecreased ∧ exec (.eRise u) s = .refused .timestampDecreased)

/-! ## Wire formats, Bus Timing Layer, Frame Codec -/

/-- A wire symbol hands back how its durations are accepted (R115) and the durations the engine sends it with (R81, R112);
the field `result` is the model's (log 11, log 15). -/
def Obligations.SymbolsAsAcceptedAndSent : Prop :=
  ∀ (low total : Nat) (s : State), configWf s.cfg = true →
    exec (.start low total) s =
      .next { s with
        result := .symbol (classifyPulse s.cfg low total) s.cfg.startLow.nom s.cfg.startTotal.nom } ∧
    exec (.bit0 low total) s =
      .next { s with
        result := .symbol (classifyPulse s.cfg low total) s.cfg.bit0Low.nom s.cfg.bitPeriod.nom } ∧
    exec (.bit1 low total) s =
      .next { s with
        result := .symbol (classifyPulse s.cfg low total) s.cfg.bit1Low.nom s.cfg.bitPeriod.nom }

/-- A block word is `{data, eom, ack}` and a header byte `{source, destination}` (R84, R87, R89); `BlockPack` and
`BlockUnpack` are inverse to each other and give the wire order (R135, R69). -/
def Obligations.FieldsOfBlockAndHeader : Prop :=
  (∀ (d : Byte) (e a : Bit) (s : State),
    exec (.block (d ++ e ++ a)) s = .next { s with result := .block { data := d, eom := e, ack := some a } }) ∧
  (∀ (src dst : LogicalAddress) (s : State),
    exec (.header (src ++ dst)) s = .next { s with result := .header src dst }) ∧
  (∀ (d : Byte) (e a : Bit), blockUnpack (blockPack d e a) = { data := d, eom := e, ack := some a }) ∧
  (∀ w : BitVec 10, ∃ d e a, blockUnpack w = { data := d, eom := e, ack := some a } ∧ blockPack d e a = w) ∧
  (∀ (d : Byte) (e a : Bit) (m : Nat), m < 10 →
    (blockPack d e a).getLsbD (9 - m) =
      if m < 8 then d.getLsbD (7 - m) else if m = 8 then e.getLsbD 0 else a.getLsbD 0)

/-- `DRIVE_BIT` gives the nominal low phase and period, and the high phase between them (R112). -/
def Obligations.DriveBitIsNominal : Prop :=
  ∀ (s : State), configWf s.cfg = true →
    (∀ v, exec (.driveBit v true) s =
      .next { s with
        result := .drive s.cfg.startLow.nom (s.cfg.startTotal.nom - s.cfg.startLow.nom) s.cfg.startTotal.nom }) ∧
    exec (.driveBit 0 false) s =
      .next { s with
        result := .drive s.cfg.bit0Low.nom (s.cfg.bitPeriod.nom - s.cfg.bit0Low.nom) s.cfg.bitPeriod.nom } ∧
    exec (.driveBit 1 false) s =
      .next { s with
        result := .drive s.cfg.bit1Low.nom (s.cfg.bitPeriod.nom - s.cfg.bit1Low.nom) s.cfg.bitPeriod.nom } ∧
    s.cfg.startLow.nom ≤ s.cfg.startTotal.nom ∧ s.cfg.bit0Low.nom ≤ s.cfg.bitPeriod.nom ∧
    s.cfg.bit1Low.nom ≤ s.cfg.bitPeriod.nom

/-- `CLASSIFY_LOW` and `CHECK_PERIOD` (R113, R114). -/
def Obligations.ClassifyLowAndCheckPeriod : Prop :=
  ∀ s : State, configWf s.cfg = true →
    (∀ low,
      (within low s.cfg.bit0Low ∧ ¬within low s.cfg.bit1Low →
        exec (.classifyLow low) s = .next { s with result := .pulse (.bitValue 0) }) ∧
      (within low s.cfg.bit1Low ∧ ¬within low s.cfg.bit0Low →
        exec (.classifyLow low) s = .next { s with result := .pulse (.bitValue 1) }) ∧
      ((within low s.cfg.bit0Low ↔ within low s.cfg.bit1Low) →
        exec (.classifyLow low) s = .next { s with result := .pulse .timingViolation })) ∧
    (∀ total,
      (within total s.cfg.bitPeriod → exec (.checkPeriod total) s = .next { s with result := .bool true }) ∧
      (¬within total s.cfg.bitPeriod → exec (.checkPeriod total) s = .next { s with result := .bool false }))

/-- `CLASSIFY_PULSE` (R115): a start bit or a data bit, and never both. -/
def Obligations.ClassifyPulse : Prop :=
  ∀ (low total : Nat) (s : State), configWf s.cfg = true →
    let start := within low s.cfg.startLow ∧ within total s.cfg.startTotal
    let data := classifyLow s.cfg low ≠ .timingViolation ∧ within total s.cfg.bitPeriod
    (start ∧ ¬data → exec (.classifyPulse low total) s = .next { s with result := .pulse .startBit }) ∧
    (data ∧ ¬start →
      exec (.classifyPulse low total) s = .next { s with result := .pulse (classifyLow s.cfg low) }) ∧
    ((start ↔ data) → exec (.classifyPulse low total) s = .next { s with result := .pulse .timingViolation })

/-- The laws (b) to (f) of R117, and R116: the two halves of the classification give the whole, for a pulse that is no start
bit. -/
def Obligations.TimingLaws : Prop :=
  ∀ c : Config, configWf c = true →
    let band := fun v : Bit => if v = 0 then c.bit0Low else c.bit1Low
    let disjoint := c.bit1Low.max < c.bit0Low.min ∨ c.bit0Low.max < c.bit1Low.min
    (∀ low v, classifyLow c low = .bitValue v → within low (band v)) ∧
    (∀ low total, classifyPulse c low total = .startBit → within low c.startLow ∧ within total c.startTotal) ∧
    (disjoint → ∀ low v, within low (band v) → classifyLow c low = .bitValue v) ∧
    (disjoint →
      (∀ v, ¬(within (driveLow c v false) c.startLow ∧ within (driveTotal c false) c.startTotal)) →
      ¬(classifyLow c c.startLow.nom ≠ .timingViolation ∧ within c.startTotal.nom c.bitPeriod) →
        (∀ v, classifyPulse c (driveLow c v false) (driveTotal c false) = .bitValue v) ∧
        (∀ v, classifyPulse c (driveLow c v true) (driveTotal c true) = .startBit)) ∧
    (∀ low total, ¬within total c.startTotal → ¬within total c.bitPeriod →
      classifyPulse c low total = .timingViolation) ∧
    (∀ low total, ¬(within low c.startLow ∧ within total c.startTotal) →
      classifyPulse c low total = if checkPeriod c total then classifyLow c low else .timingViolation)

/-- `ENCODE` of a frame (at most 14 payload bytes, R22): the header block first, then the payload, EOM on the last block
only, no ACK outcome yet (R131). -/
def Obligations.EncodeGivesTheBlocks : Prop :=
  ∀ (f : Frame) (s : State), f.payload.length ≤ 14 → ∃ bs,
    exec (.encode f) s = .next { s with result := .blocks bs } ∧ bs.length = 1 + f.payload.length ∧
      ∀ j, j < bs.length →
        bs[j]? = some { data := byteOf f j, eom := if j = bs.length - 1 then 1 else 0, ack := none }

/-- `DECODE`: the tests in order, first match wins (R132, R137). -/
def Obligations.DecodeTestsInOrder : Prop :=
  ∀ (bs : List Block) (s : State),
    let e := bs.countP (fun b => b.eom = 1)
    let lastEom := (bs.getLast?.map (·.eom)) = some 1
    (e = 0 → exec (.decode bs) s = .next { s with result := .decoded .truncated }) ∧
    (1 < e → exec (.decode bs) s = .next { s with result := .decoded .invalidEom }) ∧
    (e = 1 → ¬lastEom → exec (.decode bs) s = .next { s with result := .decoded .invalidEom }) ∧
    (e = 1 → lastEom → 14 < bs.length - 1 →
      exec (.decode bs) s = .next { s with result := .decoded .invalidEom }) ∧
    (∀ h rest, bs = h :: rest → e = 1 → lastEom → bs.length - 1 ≤ 14 →
      exec (.decode bs) s =
        .next { s with
          result := .decoded (.frame
            { source := h.data.extractLsb' 4 4, destination := h.data.extractLsb' 0 4,
              payload := rest.map (·.data) }) })

/-- The round trip, both ways (R133). -/
def Obligations.CodecRoundTrip : Prop :=
  (∀ f : Frame, f.payload.length ≤ 14 → decodeBlocks (encodeFrame f) = .frame f) ∧
  (∀ (bs : List Block) (f : Frame), decodeBlocks bs = .frame f →
    encodeFrame f = bs.map (fun b => { b with ack := none }))

/-- `TX_BIT` of the latched frame, inside its domain (R136). -/
def Obligations.TxBitOfTheLatchedFrame : Prop :=
  ∀ (f : Frame) (i k : Nat) (s : State), s.tx.frame = some f → i ≤ f.payload.length → k ≤ 8 →
    exec (.txBit i k) s = .next { s with result := .bit (cellOf f i k) }

/-- Outside its domain `TX_BIT` still completes, with a free value (the model's choice, log 14). -/
def Obligations.TxBitOutsideItsDomain : Prop :=
  ∀ (i k : Nat) (s : State), (∀ f, s.tx.frame = some f → f.payload.length < i ∨ 8 < k) →
    ∃ b, exec (.txBit i k) s =
      .next { s with env := { s.env with draws := s.env.draws + 1 }, result := .bit b }

/-- What the initiator sends as the data cells of a block, shifted in first bit first, is the block's byte again: the first
bit received ends in bit 7 (R89, R69, R136). -/
def Obligations.CellsReassembleTheByte : Prop :=
  ∀ (f : Frame) (i : Nat) (init : Byte), i ≤ f.payload.length →
    (List.range 8).foldl (fun shift k => shiftIn shift (cellOf f i k)) init = byteOf f i

/-! ## Primitives and effects -/

/-- `LINE_WRITE` sets `drive`; `LINE_READ` answers the wired AND, `Low` while the engine pulls low (R60, R61, R62). -/
def Obligations.LinePrimitives : Prop :=
  (∀ (l : Level) (s : State),
    exec (.lineWrite l) s =
      .next { s with bus := { s.bus with drive := l }, effects := s.effects ++ [.lineWrite l] }) ∧
  (∀ s : State,
    exec .lineRead s =
      .next { s with
        env := levelAnswered s.env, effects := s.effects ++ [.lineRead (lineLevel s)],
        result := .level (lineLevel s) } ∧
    (lineLevel s = .high ↔ s.bus.drive = .high ∧ othersLevel s.env = .high))

/-- `TIMER_ARM` answers a handle that neither machine holds (R63, R301); `NOW` answers no less than any time already
answered and than any edge delivered, and it sets the bound for the next answer (R64, R303). -/
def Obligations.TimerAndClock : Prop :=
  ∀ s : State, StateInv s →
    let h := s.env.armed + 1
    let u := timeAnswer s.env
    (∀ d, exec (.timerArm d) s =
      .next { s with
        env := { s.env with armed := h }, effects := s.effects ++ [.timerArm d h], result := .handle h }) ∧
    s.tx.timer ≠ some h ∧ s.rx.timer ≠ some h ∧
    exec .now s =
      .next { s with env := timeAnswered u s.env, effects := s.effects ++ [.now u], result := .time u } ∧
    s.env.clock ≤ u ∧ s.env.lastEdge ≤ u ∧ (timeAnswered u s.env).clock = u

/-- `ACK_DECISION` asks the hook for a broadcast and for this device's address only, and answers false otherwise without
asking; `SHOULD_ACK` asks it (R65, R209). -/
def Obligations.AcknowledgeHook : Prop :=
  ∀ (dest : LogicalAddress) (i : Nat) (s : State),
    let yes := hookAnswer dest i s.env
    exec (.shouldAck dest i) s =
      .next { s with
        env := hookAnswered s.env, effects := s.effects ++ [.shouldAck dest i yes], result := .bool yes } ∧
    (configWf s.cfg = true →
      (dest ≠ 15 ∧ dest ≠ s.cfg.ownAddr →
        exec (.ackDecision dest i) s = .next { s with result := .bool false }) ∧
      (dest = 15 ∨ dest = s.cfg.ownAddr →
        exec (.ackDecision dest i) s =
          .next { s with
            env := hookAnswered s.env, effects := s.effects ++ [.shouldAck dest i yes], result := .bool yes }))

/-- The effects presented by themselves are emitted and change nothing else (R66). -/
def Obligations.EffectsAreEmitted : Prop :=
  ∀ s : State,
    (∀ f, exec (.deliver f) s = .next { s with effects := s.effects ++ [.deliver f] }) ∧
    (∀ p r, exec (.complete p r) s = .next { s with effects := s.effects ++ [.complete p r] }) ∧
    (∀ r, exec (.reply r) s = .next { s with effects := s.effects ++ [.reply r] }) ∧
    exec .log s = .next { s with effects := s.effects ++ [.log] }

/-! ## The Transmit State Machine -/

/-- `A_SEND` refused: in every state but `Idle`, and for a payload longer than 14 bytes, it changes no register (R151,
R181). -/
def Obligations.SendRefused : Prop :=
  ∀ (f : Frame) (s : State), Ready s → s.tx.state ≠ .idle ∨ 14 < f.payload.length →
    exec (.aSend f) s = .next { s with effects := s.effects ++ [.log, .reply .rejected] }

/-- `A_SEND` accepted (R151), with the free-time class of R153 and the entry to the wait of R154 and R155. -/
def Obligations.SendAccepted : Prop :=
  ∀ (f : Frame) (s : State), Ready s → s.tx.state = .idle → f.payload.length ≤ 14 →
    let cls := if s.bus.lastInit = .self then FtClass.own else FtClass.new
    let ft := if s.bus.lastInit = .self then s.cfg.ftOwn else s.cfg.ftNew
    let now := timeAnswer (levelAnswered s.env)
    (lineLevel s = .low →
      exec (.aSend f) s =
        .next { s with
          tx :=
            { state := .waitFreeTime, i := 0, k := 0, phase := .low, frame := some f, acks := [], attempts := 0,
              ftClass := cls, err := none, handle := some s.tx.seq, seq := s.tx.seq + 1, timer := none },
          env := levelAnswered s.env,
          effects := s.effects ++ [.reply (.accepted s.tx.seq), .lineRead .low] }) ∧
    (lineLevel s = .high →
      exec (.aSend f) s =
        .next { s with
          tx :=
            { state := .waitFreeTime, i := 0, k := 0, phase := .low, frame := some f, acks := [], attempts := 0,
              ftClass := cls, err := none, handle := some s.tx.seq, seq := s.tx.seq + 1,
              timer := some (s.env.armed + 1) },
          env := { timeAnswered now (levelAnswered s.env) with armed := s.env.armed + 1 },
          effects :=
            s.effects ++ [.reply (.accepted s.tx.seq), .lineRead .high, .now now,
              .timerArm (s.bus.idleSince + ft - now) (s.env.armed + 1)] })

/-- `A_CANCEL`: a request that has not begun is withdrawn, every transmit register but `tx_seq` cleared; any other
withdrawal changes no register (R152, R176). -/
def Obligations.CancelRequest : Prop :=
  ∀ (p : Nat) (s : State), Ready s →
    (s.tx.state = .waitFreeTime ∧ s.tx.attempts = 0 ∧ s.tx.handle = some p →
      exec (.aCancel p) s =
        .next { s with
          tx :=
            { state := .idle, i := 0, k := 0, phase := .low, frame := none, acks := [], attempts := 0, ftClass := .new,
              err := none, handle := none, seq := s.tx.seq, timer := none },
          effects := s.effects ++ [.reply .withdrawn] }) ∧
    (¬(s.tx.state = .waitFreeTime ∧ s.tx.attempts = 0 ∧ s.tx.handle = some p) →
      exec (.aCancel p) s = .next { s with effects := s.effects ++ [.log, .reply .notWithdrawn] })

/-- The expiry of the free-time timer: a low line drops it; with the free time over an attempt begins (`TxStart()`, which
drops a reception in progress); else the rest is armed (R158, R159). -/
def Obligations.FreeTimeExpires : Prop :=
  ∀ (h : Nat) (s : State), TxTimerIn .waitFreeTime .low h s →
    let now := timeAnswer (levelAnswered s.env)
    let free := s.bus.idleSince + freeTime s.cfg s.tx.ftClass
    (lineLevel s = .low →
      exec (.eTimer h) s =
        .next { s with
          tx := { s.tx with timer := none }, env := levelAnswered s.env,
          effects := s.effects ++ [.lineRead .low] }) ∧
    (lineLevel s = .high → free ≤ now →
      exec (.eTimer h) s =
        .next { s with
          tx :=
            { s.tx with
              attempts := s.tx.attempts + 1, acks := [], state := .sendStartBit, phase := .low,
              timer := some (s.env.armed + 1) },
          rx := if s.rx.state = .idle then s.rx else Rx.atReset,
          bus := { s.bus with drive := .low },
          env := { timeAnswered now (levelAnswered s.env) with armed := s.env.armed + 1 },
          effects :=
            s.effects ++ [.lineRead .high, .now now] ++
              (if s.rx.state = .driveAck ∧ s.rx.phase = .hold then [.lineWrite .high] else []) ++
              [.lineWrite .low, .timerArm s.cfg.startLow.nom (s.env.armed + 1)] }) ∧
    (lineLevel s = .high → now < free →
      exec (.eTimer h) s =
        .next { s with
          tx := { s.tx with timer := some (s.env.armed + 1) },
          env := { timeAnswered now (levelAnswered s.env) with armed := s.env.armed + 1 },
          effects := s.effects ++ [.lineRead .high, .now now, .timerArm (free - now) (s.env.armed + 1)] })

/-- The end of the start bit's low phase: the line is released and read; low loses arbitration (R161). -/
def Obligations.StartLowPhaseEnds : Prop :=
  ∀ (h : Nat) (s : State), TxTimerIn .sendStartBit .low h s →
    (othersLevel s.env = .low →
      exec (.eTimer h) s =
        .next (arbLoss { s with
          bus := { s.bus with drive := .high }, env := levelAnswered s.env,
          effects := s.effects ++ [.lineWrite .high, .lineRead .low] })) ∧
    (othersLevel s.env = .high →
      exec (.eTimer h) s =
        .next { s with
          tx := { s.tx with phase := .high, timer := some (s.env.armed + 1) },
          bus := { s.bus with drive := .high },
          env := { levelAnswered s.env with armed := s.env.armed + 1 },
          effects :=
            s.effects ++ [.lineWrite .high, .lineRead .high,
              .timerArm (s.cfg.startTotal.nom - s.cfg.startLow.nom) (s.env.armed + 1)] })

/-- The end of the start bit: a low line loses arbitration, else the first data bit begins (R162, R160). -/
def Obligations.StartBitEnds : Prop :=
  ∀ (h : Nat) (f : Frame) (s : State), TxTimerIn .sendStartBit .high h s → s.tx.frame = some f →
    (lineLevel s = .low →
      exec (.eTimer h) s =
        .next (arbLoss { s with env := levelAnswered s.env, effects := s.effects ++ [.lineRead .low] })) ∧
    (lineLevel s = .high →
      exec (.eTimer h) s =
        .next { s with
          tx :=
            { s.tx with state := .sendBlock, i := 0, k := 0, phase := .low, timer := some (s.env.armed + 1) },
          bus := { s.bus with drive := .low },
          env := { levelAnswered s.env with armed := s.env.armed + 1 },
          effects :=
            s.effects ++ [.lineRead .high, .lineWrite .low,
              .timerArm (if cellOf f 0 0 = 0 then s.cfg.bit0Low.nom else s.cfg.bit1Low.nom) (s.env.armed + 1)] })

/-- The end of a bit's low phase: the line is released, and read inside the arbitration window only (R163, R165). -/
def Obligations.BitLowPhaseEnds : Prop :=
  ∀ (h : Nat) (f : Frame) (s : State), TxTimerIn .sendBlock .low h s → s.tx.frame = some f →
    let rest := s.cfg.bitPeriod.nom -
      (if cellOf f s.tx.i s.tx.k = 0 then s.cfg.bit0Low.nom else s.cfg.bit1Low.nom)
    (InWindow s → othersLevel s.env = .low →
      exec (.eTimer h) s =
        .next (arbLoss { s with
          bus := { s.bus with drive := .high }, env := levelAnswered s.env,
          effects := s.effects ++ [.lineWrite .high, .lineRead .low] })) ∧
    (InWindow s → othersLevel s.env = .high →
      exec (.eTimer h) s =
        .next { s with
          tx := { s.tx with phase := .high, timer := some (s.env.armed + 1) },
          bus := { s.bus with drive := .high },
          env := { levelAnswered s.env with armed := s.env.armed + 1 },
          effects := s.effects ++ [.lineWrite .high, .lineRead .high, .timerArm rest (s.env.armed + 1)] }) ∧
    (¬InWindow s →
      exec (.eTimer h) s =
        .next { s with
          tx := { s.tx with phase := .high, timer := some (s.env.armed + 1) },
          bus := { s.bus with drive := .high },
          env := { s.env with armed := s.env.armed + 1 },
          effects := s.effects ++ [.lineWrite .high, .timerArm rest (s.env.armed + 1)] })

/-- The end of a bit cell: arbitration may be lost inside the window; else the next bit begins, or after the EOM bit the
ACK cell, sent as a 1 (R164, R160, R165, R86). -/
def Obligations.BitCellEnds : Prop :=
  ∀ (h : Nat) (f : Frame) (s : State), TxTimerIn .sendBlock .high h s → s.tx.frame = some f →
    (InWindow s → lineLevel s = .low →
      exec (.eTimer h) s =
        .next (arbLoss { s with env := levelAnswered s.env, effects := s.effects ++ [.lineRead .low] })) ∧
    (∀ (v : Env) (reads : List Effect),
      (InWindow s ∧ lineLevel s = .high ∧ v = levelAnswered s.env ∧ reads = [.lineRead .high]) ∨
        (¬InWindow s ∧ v = s.env ∧ reads = []) →
      (s.tx.k < 8 →
        exec (.eTimer h) s =
          .next { s with
            tx := { s.tx with k := s.tx.k + 1, phase := .low, timer := some (s.env.armed + 1) },
            bus := { s.bus with drive := .low }, env := { v with armed := s.env.armed + 1 },
            effects :=
              s.effects ++ reads ++ [.lineWrite .low,
                .timerArm
                  (if cellOf f s.tx.i (s.tx.k + 1) = 0 then s.cfg.bit0Low.nom else s.cfg.bit1Low.nom)
                  (s.env.armed + 1)] }) ∧
      (s.tx.k = 8 →
        exec (.eTimer h) s =
          .next { s with
            tx := { s.tx with state := .sampleAck, phase := .low, timer := some (s.env.armed + 1) },
            bus := { s.bus with drive := .low }, env := { v with armed := s.env.armed + 1 },
            effects := s.effects ++ reads ++ [.lineWrite .low, .timerArm s.cfg.bit1Low.nom (s.env.armed + 1)] }))

/-- The ACK cell: its low phase ends without a look at the line, and at the sample point the line is sampled once (R168,
R169, R170). -/
def Obligations.AckCellIsSampled : Prop :=
  (∀ (h : Nat) (s : State), TxTimerIn .sampleAck .low h s →
    exec (.eTimer h) s =
      .next { s with
        tx := { s.tx with phase := .preSample, timer := some (s.env.armed + 1) },
        bus := { s.bus with drive := .high }, env := { s.env with armed := s.env.armed + 1 },
        effects :=
          s.effects ++ [.lineWrite .high,
            .timerArm (s.cfg.samplePoint.nom - s.cfg.bit1Low.nom) (s.env.armed + 1)] }) ∧
  (∀ (h : Nat) (l : Level) (s : State), TxTimerIn .sampleAck .preSample h s → lineLevel s = l →
    exec (.eTimer h) s =
      .next { s with
        tx :=
          { s.tx with
            acks := s.tx.acks ++ [if l = .high then 1 else 0], phase := .postSample,
            timer := some (s.env.armed + 1) },
        env := { levelAnswered s.env with armed := s.env.armed + 1 },
        effects :=
          s.effects ++ [.lineRead l,
            .timerArm (s.cfg.bitPeriod.nom - s.cfg.samplePoint.nom) (s.env.armed + 1)] })

/-- The verdict on an acknowledged block: the next block begins, or after the last block the transaction is done (R171,
R172, R160, R176). -/
def Obligations.AcknowledgedBlock : Prop :=
  ∀ (h : Nat) (f : Frame) (p : Nat) (a : Bit) (s : State),
    TxTimerIn .sampleAck .postSample h s → s.tx.frame = some f → s.tx.handle = some p →
    s.tx.acks.getLast? = some a → f.destination = 15 ∨ a = 0 →
    (s.tx.i < f.payload.length →
      exec (.eTimer h) s =
        .next { s with
          tx :=
            { s.tx with
              i := s.tx.i + 1, k := 0, state := .sendBlock, phase := .low, timer := some (s.env.armed + 1) },
          bus := { s.bus with drive := .low }, env := { s.env with armed := s.env.armed + 1 },
          effects :=
            s.effects ++ [.lineWrite .low,
              .timerArm
                (if cellOf f (s.tx.i + 1) 0 = 0 then s.cfg.bit0Low.nom else s.cfg.bit1Low.nom)
                (s.env.armed + 1)] }) ∧
    (s.tx.i = f.payload.length →
      exec (.eTimer h) s =
        .next { s with
          tx :=
            { state := .idle, i := 0, k := 0, phase := .low, frame := none, acks := [], attempts := 0, ftClass := .new,
              err := none, handle := none, seq := s.tx.seq, timer := none },
          bus := { s.bus with lastInit := .self },
          effects := s.effects ++ [.complete p (.done s.tx.acks)] })

/-- The verdict on a unicast block nobody acknowledged: a retry with the class `Retry`, or after the last attempt
`Failed(NoAcknowledge)` (R171, R173, R174, R154, R155, R283). -/
def Obligations.UnacknowledgedUnicast : Prop :=
  ∀ (h : Nat) (f : Frame) (p : Nat) (s : State),
    TxTimerIn .sampleAck .postSample h s → s.tx.frame = some f → s.tx.handle = some p →
    s.tx.acks.getLast? = some 1 → f.destination ≠ 15 →
    let now := timeAnswer (levelAnswered s.env)
    (s.cfg.maxAttempts ≤ s.tx.attempts →
      exec (.eTimer h) s =
        .next { s with
          tx := { Tx.atReset with seq := s.tx.seq }, bus := { s.bus with lastInit := .self },
          effects := s.effects ++ [.complete p (.failed .noAcknowledge)] }) ∧
    (s.tx.attempts < s.cfg.maxAttempts → lineLevel s = .low →
      exec (.eTimer h) s =
        .next { s with
          tx :=
            { s.tx with
              state := .waitFreeTime, i := 0, k := 0, phase := .low, acks := [], ftClass := .retry,
              err := some .noAcknowledge, timer := none },
          bus := { s.bus with lastInit := .self }, env := levelAnswered s.env,
          effects := s.effects ++ [.lineRead .low] }) ∧
    (s.tx.attempts < s.cfg.maxAttempts → lineLevel s = .high →
      exec (.eTimer h) s =
        .next { s with
          tx :=
            { s.tx with
              state := .waitFreeTime, i := 0, k := 0, phase := .low, acks := [], ftClass := .retry,
              err := some .noAcknowledge, timer := some (s.env.armed + 1) },
          bus := { s.bus with lastInit := .self },
          env := { timeAnswered now (levelAnswered s.env) with armed := s.env.armed + 1 },
          effects :=
            s.effects ++ [.lineRead .high, .now now,
              .timerArm (s.bus.idleSince + s.cfg.ftRetry - now) (s.env.armed + 1)] })

/-- `ArbLoss()`: a line still pulled is released first; then a retry with the class `Retry`, or after the last attempt
`Failed(Arbitration)` (R175, R173, R174, R154, R282). -/
def Obligations.ArbitrationLost : Prop :=
  (∀ s : State, s.bus.drive = .low →
    arbLoss s =
      arbLoss { s with bus := { s.bus with drive := .high }, effects := s.effects ++ [.lineWrite .high] }) ∧
  (∀ (p : Nat) (s : State), s.bus.drive = .high → s.tx.handle = some p →
    let now := timeAnswer (levelAnswered s.env)
    (s.cfg.maxAttempts ≤ s.tx.attempts →
      arbLoss s =
        { s with
          tx := { Tx.atReset with seq := s.tx.seq }, bus := { s.bus with lastInit := .other },
          effects := s.effects ++ [.complete p (.failed .arbitration)] }) ∧
    (s.tx.attempts < s.cfg.maxAttempts → othersLevel s.env = .low →
      arbLoss s =
        { s with
          tx :=
            { s.tx with
              state := .waitFreeTime, i := 0, k := 0, phase := .low, acks := [], ftClass := .retry,
              err := some .arbitration, timer := none },
          bus := { s.bus with lastInit := .other }, env := levelAnswered s.env,
          effects := s.effects ++ [.lineRead .low] }) ∧
    (s.tx.attempts < s.cfg.maxAttempts → othersLevel s.env = .high →
      arbLoss s =
        { s with
          tx :=
            { s.tx with
              state := .waitFreeTime, i := 0, k := 0, phase := .low, acks := [], ftClass := .retry,
              err := some .arbitration, timer := some (s.env.armed + 1) },
          bus := { s.bus with lastInit := .other },
          env := { timeAnswered now (levelAnswered s.env) with armed := s.env.armed + 1 },
          effects :=
            s.effects ++ [.lineRead .high, .now now,
              .timerArm (s.bus.idleSince + s.cfg.ftRetry - now) (s.env.armed + 1)] }))

/-- The edges while the transmitter is active (R166, R167): a fall with the line pulled is the engine's own echo, a fall
with the line released loses arbitration inside the window and is `InvalidState` outside it; a rise moves
`bus_idle_since` only. -/
def Obligations.EdgesWhileTransmitting : Prop :=
  ∀ (u : Nat) (s : State), EdgeReady u s → txActive s = true →
    let v := { s.env with lastEdge := u, clock := max s.env.clock u }
    (s.bus.drive = .low → exec (.eFall u) s = .next { s with env := v }) ∧
    (s.bus.drive = .high → InWindow s → exec (.eFall u) s = .next (arbLoss { s with env := v })) ∧
    (s.bus.drive = .high → ¬InWindow s →
      exec (.eFall u) s = .next { s with env := v, effects := s.effects ++ [.log] }) ∧
    exec (.eRise u) s = .next { s with bus := { s.bus with idleSince := u }, env := v }

/-- The edges while a frame waits for the bus (R156, R157, R261): the receiver does what it does with nothing to send; a
fall drops the free-time timer, a rise arms the whole free time after the receiver's effects. -/
def Obligations.EdgesWhileWaiting : Prop :=
  ∀ (u : Nat) (s r : State), EdgeReady u s → s.tx.state = .waitFreeTime →
    (exec (.eFall u) { s with tx := Tx.atReset } = .next r →
      exec (.eFall u) s = .next { r with tx := { s.tx with timer := none } }) ∧
    (exec (.eRise u) { s with tx := Tx.atReset } = .next r →
      exec (.eRise u) s =
        .next { r with
          tx := { s.tx with timer := some (r.env.armed + 1) },
          env := { r.env with armed := r.env.armed + 1 },
          effects := r.effects ++ [.timerArm (freeTime s.cfg s.tx.ftClass) (r.env.armed + 1)] })

/-- A broadcast is never failed by its ACK sample: the verdict goes on to the next block or completes the transaction as
`Done`, whatever was sampled (R177). -/
def Obligations.BroadcastIsNeverUnacknowledged : Prop :=
  ∀ (h : Nat) (f : Frame) (s t : State),
    TxTimerIn .sampleAck .postSample h s → s.tx.frame = some f → f.destination = 15 →
    exec (.eTimer h) s = .next t →
      (t.tx.state = .sendBlock ∧ t.tx.i = s.tx.i + 1 ∧ t.tx.attempts = s.tx.attempts ∧ t.tx.err = s.tx.err) ∨
      (t.tx.state = .idle ∧ ∃ p, t.effects = s.effects ++ [.complete p (.done s.tx.acks)])

/-! ## The Receive State Machine

An edge reaches the receiver whenever the transmitter is not active; what it does to a frame waiting for the bus at the
same time is `waitDropped` and `waitRearmed` of Safety.lean (R156, R157). -/

/-- A falling edge on an idle receiver is a candidate start bit (R201); at its rising edge the low duration is kept, nothing
is classified and no timer is armed (R202). -/
def Obligations.CandidateStartBit : Prop :=
  (∀ (u : Nat) (s : State), RxEdgeIn .idle .awaitFall u s →
    exec (.eFall u) s =
      .next { s with
        tx := waitDropped s.tx,
        rx :=
          { s.rx with
            fall := some u, low := none, state := .detectStart, phase := .awaitRise,
            timer := some (s.env.armed + 1) },
        env := { s.env with lastEdge := u, clock := max s.env.clock u, armed := s.env.armed + 1 },
        effects := s.effects ++ [.timerArm s.cfg.rxTimeout (s.env.armed + 1)] }) ∧
  (∀ (u fall : Nat) (s : State), RxEdgeIn .detectStart .awaitRise u s → s.rx.fall = some fall →
    exec (.eRise u) s =
      .next (waitRearmed { s with
        rx := { s.rx with low := some (u - fall), phase := .awaitFall },
        bus := { s.bus with idleSince := u },
        env := { s.env with lastEdge := u, clock := max s.env.clock u } }))

/-- The falling edge that ends the candidate: a start bit begins block 0 and is another device's; anything else is dropped
and the same edge is a new candidate (R203, R204, R205). -/
def Obligations.FallEndsTheCandidate : Prop :=
  ∀ (u fall : Nat) (low : Nat) (s : State),
    RxEdgeIn .detectStart .awaitFall u s → s.rx.fall = some fall → s.rx.low = some low →
    let v := { s.env with lastEdge := u, clock := max s.env.clock u, armed := s.env.armed + 1 }
    (classifyPulse s.cfg low (u - fall) = .startBit →
      exec (.eFall u) s =
        .next { s with
          tx := waitDropped s.tx,
          rx :=
            { s.rx with
              state := .receiveBlock, i := 0, k := 0, shift := 0, blocks := [], fall := some u, low := none,
              phase := .awaitRise, timer := some (s.env.armed + 1) },
          bus := { s.bus with lastInit := .other }, env := v,
          effects := s.effects ++ [.timerArm s.cfg.rxTimeout (s.env.armed + 1)] }) ∧
    (classifyPulse s.cfg low (u - fall) ≠ .startBit →
      exec (.eFall u) s =
        .next { s with
          tx := waitDropped s.tx,
          rx :=
            { state := .detectStart, i := 0, k := 0, phase := .awaitRise, fall := some u, low := none, shift := 0,
              eom := 0, blocks := [], dest := none, timer := some (s.env.armed + 1) },
          env := v, effects := s.effects ++ [.timerArm s.cfg.rxTimeout (s.env.armed + 1)] })

/-- The falling edge that begins a data, EOM or watched ACK cell: a period out of band drops the frame and re-uses the
edge (R206, R210, R204, R205). -/
def Obligations.FallBeginsACell : Prop :=
  ∀ (u fall : Nat) (st : RxState) (s : State), st = .receiveBlock ∨ st = .skipAck →
    RxEdgeIn st .awaitFall u s → s.rx.fall = some fall →
    let v := { s.env with lastEdge := u, clock := max s.env.clock u, armed := s.env.armed + 1 }
    (within (u - fall) s.cfg.bitPeriod →
      exec (.eFall u) s =
        .next { s with
          tx := waitDropped s.tx,
          rx := { s.rx with fall := some u, phase := .awaitRise, timer := some (s.env.armed + 1) },
          env := v, effects := s.effects ++ [.timerArm s.cfg.rxTimeout (s.env.armed + 1)] }) ∧
    (¬within (u - fall) s.cfg.bitPeriod →
      exec (.eFall u) s =
        .next { s with
          tx := waitDropped s.tx,
          rx :=
            { Rx.atReset with
              state := .detectStart, phase := .awaitRise, fall := some u, timer := some (s.env.armed + 1) },
          env := v, effects := s.effects ++ [.timerArm s.cfg.rxTimeout (s.env.armed + 1)] })

/-- The falling edge of an ACK cell the engine drives: it pulls the line low and holds it for the low phase of a 0; a
period out of band drops the frame before the line is touched (R212, R204, R205). -/
def Obligations.FallBeginsADrivenAck : Prop :=
  ∀ (u fall : Nat) (s : State), RxEdgeIn .driveAck .awaitFall u s → s.rx.fall = some fall →
    let v := { s.env with lastEdge := u, clock := max s.env.clock u, armed := s.env.armed + 1 }
    (within (u - fall) s.cfg.bitPeriod →
      exec (.eFall u) s =
        .next { s with
          tx := waitDropped s.tx,
          rx := { s.rx with fall := some u, phase := .hold, timer := some (s.env.armed + 1) },
          bus := { s.bus with drive := .low }, env := v,
          effects := s.effects ++ [.lineWrite .low, .timerArm s.cfg.bit0Low.nom (s.env.armed + 1)] }) ∧
    (¬within (u - fall) s.cfg.bitPeriod →
      exec (.eFall u) s =
        .next { s with
          tx := waitDropped s.tx,
          rx :=
            { Rx.atReset with
              state := .detectStart, phase := .awaitRise, fall := some u, timer := some (s.env.armed + 1) },
          env := v, effects := s.effects ++ [.timerArm s.cfg.rxTimeout (s.env.armed + 1)] })

/-- The rising edge of a data bit: the bit is shifted in, or the frame is dropped (R207, R205). -/
def Obligations.RiseOfADataBit : Prop :=
  ∀ (u fall : Nat) (s : State), RxEdgeIn .receiveBlock .awaitRise u s → s.rx.fall = some fall →
    s.rx.k < 8 →
    let v := { s.env with lastEdge := u, clock := max s.env.clock u }
    (∀ b, classifyLow s.cfg (u - fall) = .bitValue b →
      exec (.eRise u) s =
        .next (waitRearmed { s with
          rx := { s.rx with shift := s.rx.shift.extractLsb' 0 7 ++ b, k := s.rx.k + 1, phase := .awaitFall },
          bus := { s.bus with idleSince := u }, env := v })) ∧
    (classifyLow s.cfg (u - fall) = .timingViolation →
      exec (.eRise u) s =
        .next (waitRearmed { s with rx := Rx.atReset, bus := { s.bus with idleSince := u }, env := v }))

/-- The rising edge of the EOM bit: the header's destination is kept, the ACK cell is decided on, a fifteenth block that is
not the last drops the frame (R208, R209, R218, R205). -/
def Obligations.RiseOfTheEomBit : Prop :=
  ∀ (u fall : Nat) (dest : LogicalAddress) (s : State),
    RxEdgeIn .receiveBlock .awaitRise u s → s.rx.fall = some fall → s.rx.k = 8 →
    (if s.rx.i = 0 then dest = s.rx.shift.extractLsb' 0 4 else s.rx.dest = some dest) →
    let v := { s.env with lastEdge := u, clock := max s.env.clock u }
    let yes := hookAnswer dest s.rx.i v
    (classifyLow s.cfg (u - fall) = .timingViolation ∨
        (classifyLow s.cfg (u - fall) = .bitValue 0 ∧ s.rx.i = 14) →
      exec (.eRise u) s =
        .next (waitRearmed { s with rx := Rx.atReset, bus := { s.bus with idleSince := u }, env := v })) ∧
    (∀ b, classifyLow s.cfg (u - fall) = .bitValue b → ¬(s.rx.i = 14 ∧ b = 0) →
      (dest ≠ 15 ∧ dest ≠ s.cfg.ownAddr →
        exec (.eRise u) s =
          .next (waitRearmed { s with
            rx := { s.rx with eom := b, dest := some dest, state := .skipAck, phase := .awaitFall },
            bus := { s.bus with idleSince := u }, env := v })) ∧
      (dest = 15 ∨ dest = s.cfg.ownAddr →
        exec (.eRise u) s =
          .next (waitRearmed { s with
            rx :=
              { s.rx with
                eom := b, dest := some dest, state := if yes then .driveAck else .skipAck, phase := .awaitFall },
            bus := { s.bus with idleSince := u }, env := hookAnswered v,
            effects := s.effects ++ [.shouldAck dest s.rx.i yes] })))

/-- The rising edge that ends an ACK cell of a block that is not the last: the block is kept with the ACK bit seen, 0 for a
driven cell without classifying it, and the next block begins (R211, R214, R215); an unclassifiable watched cell drops
the frame (R205). -/
def Obligations.BlockIsComplete : Prop :=
  ∀ (u fall : Nat) (st : RxState) (s : State), RxEdgeIn st .awaitRise u s → s.rx.fall = some fall →
    let v := { s.env with lastEdge := u, clock := max s.env.clock u }
    (∀ a, (st = .driveAck ∧ a = 0) ∨ (st = .skipAck ∧ classifyLow s.cfg (u - fall) = .bitValue a) →
      s.rx.eom = 0 →
      exec (.eRise u) s =
        .next (waitRearmed { s with
          rx :=
            { s.rx with
              blocks := s.rx.blocks ++ [{ data := s.rx.shift, eom := 0, ack := some a }],
              i := s.rx.i + 1, k := 0, shift := 0, eom := 0, state := .receiveBlock, phase := .awaitFall },
          bus := { s.bus with idleSince := u }, env := v })) ∧
    (st = .skipAck → classifyLow s.cfg (u - fall) = .timingViolation →
      exec (.eRise u) s =
        .next (waitRearmed { s with rx := Rx.atReset, bus := { s.bus with idleSince := u }, env := v }))

/-- The rising edge that ends the last block's ACK cell delivers the frame once, whatever its destination, and leaves the
receiver idle: in a state the invariants allow the blocks always make a frame (R215, R216, R221, R137). -/
def Obligations.LastBlockDeliversTheFrame : Prop :=
  ∀ (u fall : Nat) (st : RxState) (s : State), StateInv s → RxEdgeIn st .awaitRise u s →
    s.rx.fall = some fall → s.rx.eom = 1 →
    (st = .driveAck ∨ (st = .skipAck ∧ classifyLow s.cfg (u - fall) ≠ .timingViolation)) →
    ∃ header payload,
      s.rx.blocks.map (·.data) ++ [s.rx.shift] = header :: payload ∧ payload.length ≤ 14 ∧
      exec (.eRise u) s =
        .next (waitRearmed { s with
          rx := Rx.atReset, bus := { s.bus with idleSince := u },
          env := { s.env with lastEdge := u, clock := max s.env.clock u },
          effects := s.effects ++ [.deliver
            { source := header.extractLsb' 4 4, destination := header.extractLsb' 0 4, payload := payload }] })

/-- A timer the transmitter does not wait on (R254): the end of a driven acknowledge's hold releases the line (R213), any
other expiry the receiver waits on is its time-out and drops the frame in silence (R217, R205), and one nobody waits on any
more changes nothing and is not logged. -/
def Obligations.TimersOfTheReceiver : Prop :=
  ∀ (h : Nat) (s : State), Ready s → s.tx.timer ≠ some h →
    (s.rx.timer = some h → s.rx.state = .driveAck ∧ s.rx.phase = .hold →
      exec (.eTimer h) s =
        .next { s with
          rx := { s.rx with phase := .awaitRise, timer := some (s.env.armed + 1) },
          bus := { s.bus with drive := .high }, env := { s.env with armed := s.env.armed + 1 },
          effects := s.effects ++ [.lineWrite .high, .timerArm s.cfg.rxTimeout (s.env.armed + 1)] }) ∧
    (s.rx.timer = some h → ¬(s.rx.state = .driveAck ∧ s.rx.phase = .hold) →
      exec (.eTimer h) s = .next { s with rx := Rx.atReset }) ∧
    (s.rx.timer ≠ some h → exec (.eTimer h) s = .next s)

/-- Edges the receiver is not waiting for are logged and change no receive register; a rise still moves `bus_idle_since`,
and a frame waiting for the bus is affected as by any edge (R219, R220, R156, R157). -/
def Obligations.UnexpectedEdges : Prop :=
  ∀ (u : Nat) (s : State), EdgeReady u s → txActive s = false →
    let v := { s.env with lastEdge := u, clock := max s.env.clock u }
    (s.rx.state ≠ .idle → s.rx.phase ≠ .awaitFall →
      exec (.eFall u) s = .next { s with tx := waitDropped s.tx, env := v, effects := s.effects ++ [.log] }) ∧
    (s.rx.state = .idle ∨ s.rx.phase ≠ .awaitRise →
      exec (.eRise u) s =
        .next (waitRearmed { s with bus := { s.bus with idleSince := u }, env := v, effects := s.effects ++ [.log] }))

/-! ## Reset -/

/-- `RESET` in any state at all: the line is released, every register takes the value of R38, the configuration presented
is in force, the free-time clock starts now, and nothing else is emitted (R320, R321, R322). -/
def Obligations.ResetFromAnyState : Prop :=
  ∀ s : State, configWf s.cfgIn = true →
    let now := timeAnswer s.env
    exec .reset s =
      .next { s with
        cfg := s.cfgIn,
        tx :=
          { state := .idle, i := 0, k := 0, phase := .low, frame := none, acks := [], attempts := 0, ftClass := .new,
            err := none, handle := none, seq := 0, timer := none },
        rx :=
          { state := .idle, i := 0, k := 0, phase := .awaitFall, fall := none, low := none, shift := 0, eom := 0,
            blocks := [], dest := none, timer := none },
        bus := { drive := .high, idleSince := now, lastInit := .other },
        env := timeAnswered now s.env,
        effects := s.effects ++ [.lineWrite .high, .now now] }

/-! ## The reserved length -/

/-- The reserved length 15 of a frame operand makes `A_SEND` answer `Rejected`, whatever bytes follow it and however many
(R91, R151, R98). The byte layout of the record is the model's (log 12, log 16). -/
def Obligations.ReservedLengthIsRejected : Prop :=
  ∀ (s : State) (addresses lenAndMore : Byte) (operand : List Byte) (rest : List Record),
    s.inbox = .event (3 :: addresses :: lenAndMore :: operand) :: rest → lenAndMore.extractLsb' 4 4 = 15 → Ready s →
      step s = .next { s with inbox := rest, effects := s.effects ++ [.log, .reply .rejected] }
end

