-- ==== Sys2Proof/Laws/State.lean ====
section
/-! SUPPORT. One lemma per field of State per update of Machine/Ops.lean, so that no proof unfolds a record update. -/

namespace Sys2Proof.Machine

@[simp] theorem setTx_cfg (x : Tx) (s : State) : (setTx x s).cfg = s.cfg := rfl
@[simp] theorem setTx_cfgIn (x : Tx) (s : State) : (setTx x s).cfgIn = s.cfgIn := rfl
@[simp] theorem setTx_tx (x : Tx) (s : State) : (setTx x s).tx = x := rfl
@[simp] theorem setTx_rx (x : Tx) (s : State) : (setTx x s).rx = s.rx := rfl
@[simp] theorem setTx_bus (x : Tx) (s : State) : (setTx x s).bus = s.bus := rfl
@[simp] theorem setTx_env (x : Tx) (s : State) : (setTx x s).env = s.env := rfl
@[simp] theorem setTx_inbox (x : Tx) (s : State) : (setTx x s).inbox = s.inbox := rfl
@[simp] theorem setTx_effects (x : Tx) (s : State) : (setTx x s).effects = s.effects := rfl
@[simp] theorem setTx_result (x : Tx) (s : State) : (setTx x s).result = s.result := rfl

@[simp] theorem setRx_cfg (x : Rx) (s : State) : (setRx x s).cfg = s.cfg := rfl
@[simp] theorem setRx_cfgIn (x : Rx) (s : State) : (setRx x s).cfgIn = s.cfgIn := rfl
@[simp] theorem setRx_tx (x : Rx) (s : State) : (setRx x s).tx = s.tx := rfl
@[simp] theorem setRx_rx (x : Rx) (s : State) : (setRx x s).rx = x := rfl
@[simp] theorem setRx_bus (x : Rx) (s : State) : (setRx x s).bus = s.bus := rfl
@[simp] theorem setRx_env (x : Rx) (s : State) : (setRx x s).env = s.env := rfl
@[simp] theorem setRx_inbox (x : Rx) (s : State) : (setRx x s).inbox = s.inbox := rfl
@[simp] theorem setRx_effects (x : Rx) (s : State) : (setRx x s).effects = s.effects := rfl
@[simp] theorem setRx_result (x : Rx) (s : State) : (setRx x s).result = s.result := rfl

@[simp] theorem setBus_cfg (x : Bus) (s : State) : (setBus x s).cfg = s.cfg := rfl
@[simp] theorem setBus_cfgIn (x : Bus) (s : State) : (setBus x s).cfgIn = s.cfgIn := rfl
@[simp] theorem setBus_tx (x : Bus) (s : State) : (setBus x s).tx = s.tx := rfl
@[simp] theorem setBus_rx (x : Bus) (s : State) : (setBus x s).rx = s.rx := rfl
@[simp] theorem setBus_bus (x : Bus) (s : State) : (setBus x s).bus = x := rfl
@[simp] theorem setBus_env (x : Bus) (s : State) : (setBus x s).env = s.env := rfl
@[simp] theorem setBus_inbox (x : Bus) (s : State) : (setBus x s).inbox = s.inbox := rfl
@[simp] theorem setBus_effects (x : Bus) (s : State) : (setBus x s).effects = s.effects := rfl
@[simp] theorem setBus_result (x : Bus) (s : State) : (setBus x s).result = s.result := rfl

@[simp] theorem setEnv_cfg (x : Env) (s : State) : (setEnv x s).cfg = s.cfg := rfl
@[simp] theorem setEnv_cfgIn (x : Env) (s : State) : (setEnv x s).cfgIn = s.cfgIn := rfl
@[simp] theorem setEnv_tx (x : Env) (s : State) : (setEnv x s).tx = s.tx := rfl
@[simp] theorem setEnv_rx (x : Env) (s : State) : (setEnv x s).rx = s.rx := rfl
@[simp] theorem setEnv_bus (x : Env) (s : State) : (setEnv x s).bus = s.bus := rfl
@[simp] theorem setEnv_env (x : Env) (s : State) : (setEnv x s).env = x := rfl
@[simp] theorem setEnv_inbox (x : Env) (s : State) : (setEnv x s).inbox = s.inbox := rfl
@[simp] theorem setEnv_effects (x : Env) (s : State) : (setEnv x s).effects = s.effects := rfl
@[simp] theorem setEnv_result (x : Env) (s : State) : (setEnv x s).result = s.result := rfl

@[simp] theorem setResult_cfg (x : Result) (s : State) : (setResult x s).cfg = s.cfg := rfl
@[simp] theorem setResult_cfgIn (x : Result) (s : State) : (setResult x s).cfgIn = s.cfgIn := rfl
@[simp] theorem setResult_tx (x : Result) (s : State) : (setResult x s).tx = s.tx := rfl
@[simp] theorem setResult_rx (x : Result) (s : State) : (setResult x s).rx = s.rx := rfl
@[simp] theorem setResult_bus (x : Result) (s : State) : (setResult x s).bus = s.bus := rfl
@[simp] theorem setResult_env (x : Result) (s : State) : (setResult x s).env = s.env := rfl
@[simp] theorem setResult_inbox (x : Result) (s : State) : (setResult x s).inbox = s.inbox := rfl
@[simp] theorem setResult_effects (x : Result) (s : State) : (setResult x s).effects = s.effects := rfl
@[simp] theorem setResult_result (x : Result) (s : State) : (setResult x s).result = x := rfl

@[simp] theorem emit_cfg (x : Effect) (s : State) : (emit x s).cfg = s.cfg := rfl
@[simp] theorem emit_cfgIn (x : Effect) (s : State) : (emit x s).cfgIn = s.cfgIn := rfl
@[simp] theorem emit_tx (x : Effect) (s : State) : (emit x s).tx = s.tx := rfl
@[simp] theorem emit_rx (x : Effect) (s : State) : (emit x s).rx = s.rx := rfl
@[simp] theorem emit_bus (x : Effect) (s : State) : (emit x s).bus = s.bus := rfl
@[simp] theorem emit_env (x : Effect) (s : State) : (emit x s).env = s.env := rfl
@[simp] theorem emit_inbox (x : Effect) (s : State) : (emit x s).inbox = s.inbox := rfl
@[simp] theorem emit_effects (x : Effect) (s : State) : (emit x s).effects = s.effects ++ [x] := rfl
@[simp] theorem emit_result (x : Effect) (s : State) : (emit x s).result = s.result := rfl

end Sys2Proof.Machine
end

