-- ==== Sys2Proof/Laws/Ops.lean ====
section
/-! SUPPORT. For each shared operation of Machine/Ops.lean, Transmit.lean and Receive.lean, once and for all what it does:
an equation with every field it changes, or one per case. Proofs cite these and do not unfold the operation. -/

namespace Sys2Proof.Machine

/-! ## The access primitives -/

theorem lineWrite_eq (l : Level) (s : State) :
    lineWrite l s = { s with bus := { s.bus with drive := l }, effects := s.effects ++ [.lineWrite l] } := rfl

theorem lineRead_eq (s : State) :
    lineRead s = { s with env := levelAnswered s.env, effects := s.effects ++ [.lineRead (lineLevel s)] } := rfl

theorem nowRead_eq (s : State) :
    nowRead s = { s with env := timeAnswered (timeAnswer s.env) s.env, effects := s.effects ++ [.now (timeAnswer s.env)] } := rfl

theorem timerArm_eq (d : Nat) (s : State) :
    timerArm d s =
      { s with
        env := { s.env with armed := s.env.armed + 1 },
        effects := s.effects ++ [.timerArm d (s.env.armed + 1)] } := rfl

theorem shouldAck_eq (dest : LogicalAddress) (i : Nat) (s : State) :
    shouldAck dest i s =
      { s with env := hookAnswered s.env, effects := s.effects ++ [.shouldAck dest i (hookAnswer dest i s.env)] } := rfl

theorem armTx_eq (d : Nat) (s : State) :
    armTx d s =
      { s with
        tx := { s.tx with timer := some (s.env.armed + 1) },
        env := { s.env with armed := s.env.armed + 1 },
        effects := s.effects ++ [.timerArm d (s.env.armed + 1)] } := rfl

theorem armRx_eq (d : Nat) (s : State) :
    armRx d s =
      { s with
        rx := { s.rx with timer := some (s.env.armed + 1) },
        env := { s.env with armed := s.env.armed + 1 },
        effects := s.effects ++ [.timerArm d (s.env.armed + 1)] } := rfl

/-- With the line released, `LineRead` sees the other devices alone (R62). -/
theorem lineLevel_of_released (s : State) (h : s.bus.drive = .high) : lineLevel s = othersLevel s.env := by
  unfold lineLevel resolvedLevel
  rw [h]
  cases othersLevel s.env <;> rfl

/-- While the engine pulls low, `LineRead` sees `Low` (R60). -/
theorem lineLevel_of_driven (s : State) (h : s.bus.drive = .low) : lineLevel s = .low := by
  unfold lineLevel resolvedLevel
  rw [h]

/-- The line is high only when the engine has released it and nobody else pulls it low (R62). -/
theorem lineLevel_high_iff (s : State) :
    lineLevel s = .high ↔ s.bus.drive = .high ∧ othersLevel s.env = .high := by
  unfold lineLevel resolvedLevel
  cases s.bus.drive <;> cases othersLevel s.env <;> simp

@[simp] theorem levelAnswered_armed (v : Env) : (levelAnswered v).armed = v.armed := by
  unfold levelAnswered; split <;> rfl

@[simp] theorem levelAnswered_lastEdge (v : Env) : (levelAnswered v).lastEdge = v.lastEdge := by
  unfold levelAnswered; split <;> rfl

@[simp] theorem levelAnswered_clock (v : Env) : (levelAnswered v).clock = v.clock := by
  unfold levelAnswered; split <;> rfl

@[simp] theorem timeAnswered_armed (t : Nat) (v : Env) : (timeAnswered t v).armed = v.armed := by
  unfold timeAnswered; split <;> rfl

@[simp] theorem timeAnswered_lastEdge (t : Nat) (v : Env) : (timeAnswered t v).lastEdge = v.lastEdge := by
  unfold timeAnswered; split <;> rfl

@[simp] theorem timeAnswered_clock (t : Nat) (v : Env) : (timeAnswered t v).clock = t := by
  unfold timeAnswered; split <;> rfl

@[simp] theorem hookAnswered_armed (v : Env) : (hookAnswered v).armed = v.armed := by
  unfold hookAnswered; split <;> rfl

@[simp] theorem hookAnswered_lastEdge (v : Env) : (hookAnswered v).lastEdge = v.lastEdge := by
  unfold hookAnswered; split <;> rfl

@[simp] theorem hookAnswered_clock (v : Env) : (hookAnswered v).clock = v.clock := by
  unfold hookAnswered; split <;> rfl

/-- `Now` never answers less than a time already shown (R64). -/
theorem clock_le_timeAnswer (v : Env) : v.clock ≤ timeAnswer v := by
  unfold timeAnswer
  split
  · exact Nat.le_max_left _ _
  · exact Nat.le_add_right _ _

/-! ## The macros of the receiver -/

/-- `RxAbort()` while the engine holds an acknowledge (R205). -/
theorem rxAbort_holding (s : State) (h : s.rx.state = .driveAck ∧ s.rx.phase = .hold) :
    rxAbort s =
      { s with
        rx := Rx.atReset, bus := { s.bus with drive := .high }, effects := s.effects ++ [.lineWrite .high] } := by
  unfold rxAbort; rw [if_pos h]; rfl

/-- `RxAbort()` otherwise (R205). -/
theorem rxAbort_silent (s : State) (h : ¬(s.rx.state = .driveAck ∧ s.rx.phase = .hold)) :
    rxAbort s = { s with rx := Rx.atReset } := by
  unfold rxAbort; rw [if_neg h]; rfl

/-- `RxIdleFall(t)` (R201). -/
theorem rxIdleFall_eq (t : Nat) (s : State) :
    rxIdleFall t s =
      { s with
        rx :=
          { s.rx with
            fall := some t, low := none, state := .detectStart, phase := .awaitRise,
            timer := some (s.env.armed + 1) },
        env := { s.env with armed := s.env.armed + 1 },
        effects := s.effects ++ [.timerArm s.cfg.rxTimeout (s.env.armed + 1)] } := rfl

/-! ## The macros of the transmitter -/

/-- `EnterWait()` on a busy bus (R154). -/
theorem enterWait_low (s : State) (h : lineLevel s = .low) :
    enterWait s =
      { s with
        tx := { waitRegisters s.tx with timer := none }, env := levelAnswered s.env,
        effects := s.effects ++ [.lineRead .low] } := by
  unfold lineLevel at h
  simp [enterWait, lineLevel, h, lineRead_eq, setTx]

/-- `EnterWait()` on a high line (R154). -/
theorem enterWait_high (s : State) (h : lineLevel s = .high) :
    enterWait s =
      { s with
        tx := { waitRegisters s.tx with timer := some (s.env.armed + 1) },
        env :=
          { timeAnswered (timeAnswer (levelAnswered s.env)) (levelAnswered s.env) with armed := s.env.armed + 1 },
        effects :=
          s.effects ++ [.lineRead .high, .now (timeAnswer (levelAnswered s.env)),
            .timerArm (s.bus.idleSince + freeTime s.cfg s.tx.ftClass - timeAnswer (levelAnswered s.env)) (s.env.armed + 1)] } := by
  unfold lineLevel at h
  simp [enterWait, lineLevel, h, armTx_eq, nowRead_eq, lineRead_eq, freeFrom, setTx, waitRegisters]

/-- `Retry()` with no attempt left (R173, R174). -/
theorem retry_exhausted (why : FailReason) (s : State) (h : s.cfg.maxAttempts ≤ s.tx.attempts) :
    retry why s = txFailed why (setTx { s.tx with timer := none } s) := by
  unfold retry; rw [if_pos h]

/-- `Retry()` with an attempt left (R173). -/
theorem retry_again (why : FailReason) (s : State) (h : s.tx.attempts < s.cfg.maxAttempts) :
    retry why s = enterWait (setTx { s.tx with timer := none, ftClass := .retry } s) := by
  unfold retry; rw [if_neg (Nat.not_le.mpr h)]

/-- `TxFailed()` of a transaction with handle `p` (R174). -/
theorem txFailed_eq (why : FailReason) (s : State) (p : Nat) (h : s.tx.handle = some p) :
    txFailed why s =
      { s with
        tx := { Tx.atReset with seq := s.tx.seq }, effects := s.effects ++ [.complete p (.failed why)] } := by
  unfold txFailed completeTx; rw [h]; rfl

/-- `TxDone()` of a transaction with handle `p` (R172). -/
theorem txDone_eq (s : State) (p : Nat) (h : s.tx.handle = some p) :
    txDone s =
      { s with
        tx := { Tx.atReset with seq := s.tx.seq }, bus := { s.bus with lastInit := .self },
        effects := s.effects ++ [.complete p (.done s.tx.acks)] } := by
  have h' : (setBus { s.bus with lastInit := .self } s).tx.handle = some p := h
  unfold txDone completeTx; rw [h']; rfl

/-! ## Admission -/

/-- An operation under a well-formed configuration runs (R8). -/
theorem configured_eq (s : State) (k : Host.Outcome State Fault Refusal) (h : configWf s.cfg = true) :
    configured s k = k := by
  unfold configured; rw [if_pos h]

/-- An event that is admitted runs (R8, R39). -/
theorem admitted_eq (s : State) (k : Host.Outcome State Fault Refusal) (hc : configWf s.cfg = true)
    (hl : legal s = true) : admitted s k = k := by
  unfold admitted; rw [configured_eq s _ hc, if_pos hl]

/-- An event that answers a next state was admitted (R8, R39). -/
theorem admitted_next (s t : State) (k : Host.Outcome State Fault Refusal) (h : admitted s k = .next t) :
    configWf s.cfg = true ∧ legal s = true ∧ k = .next t := by
  unfold admitted configured at h
  split at h
  · split at h
    · exact ⟨‹_›, ‹_›, h⟩
    · cases h
  · cases h

/-- An operation that reads the configuration and answers a next state ran under a well-formed one (R8). -/
theorem configured_next (s t : State) (k : Host.Outcome State Fault Refusal) (h : configured s k = .next t) :
    configWf s.cfg = true ∧ k = .next t := by
  unfold configured at h
  split at h
  · exact ⟨‹_›, h⟩
  · cases h

end Sys2Proof.Machine
end

