-- ==== Sys2Proof/Laws/Decode.lean ====
section
/-! SUPPORT. What the decoder reads from the nibbles of a frame operand, and what a record that is no operation does. -/

namespace Sys2Proof.Machine

theorem nibblesOfBytes_length (bs : List Byte) : (nibblesOfBytes bs).length = 2 * bs.length := by
  induction bs with
  | nil => rfl
  | cons b bs ih => simp only [nibblesOfBytes, List.length_cons, ih]; omega

theorem takeBytes_length (count : Nat) (ns : List (BitVec 4)) : (takeBytes count ns).length = count := by
  induction count, ns using takeBytes.induct <;> simp_all [takeBytes]

/-- The payload bytes are read back, whatever follows them (R91). -/
theorem takeBytes_nibblesOfBytes (bs : List Byte) (rest : List (BitVec 4)) :
    takeBytes bs.length (nibblesOfBytes bs ++ rest) = bs := by
  induction bs with
  | nil => rfl
  | cons b bs ih =>
    have : b.extractLsb' 4 4 ++ b.extractLsb' 0 4 = b := by ext i; simp; grind
    simp only [nibblesOfBytes, List.cons_append, List.length_cons, takeBytes, ih, this]

/-- A frame operand whose payload is there (R91). -/
theorem frameOfNibbles_complete (s d len : BitVec 4) (ns : List (BitVec 4)) (h : 2 * len.toNat ≤ ns.length) :
    frameOfNibbles (s :: d :: len :: ns) =
      .ok { source := s, destination := d, payload := takeBytes len.toNat ns } := by
  exact if_neg (by omega)

/-- A frame operand of the reserved length, whatever follows (R91). -/
theorem frameOfNibbles_reserved (s d : BitVec 4) (ns : List (BitVec 4)) :
    frameOfNibbles (s :: d :: 15 :: ns) = .ok { source := s, destination := d, payload := takeBytes 15 ns } := by
  simp [frameOfNibbles]

/-- A frame operand that ends before its payload does. -/
theorem frameOfNibbles_truncated (s d len : BitVec 4) (ns : List (BitVec 4)) (h : len ≠ 15)
    (hn : ns.length < 2 * len.toNat) : frameOfNibbles (s :: d :: len :: ns) = .error .operandTruncated := by
  exact if_pos ⟨h, hn⟩

/-- A cell of no symbol (R96). -/
theorem undecoded_symbol (s : State) (h : configWf s.cfg = true) :
    undecoded .illegalSymbol s = .next { s with result := .pulse .timingViolation } := by
  show configured s _ = _
  rw [configured_eq s _ h]; rfl

/-- Every other record that is no operation (R97, log 12, log 13). -/
theorem undecoded_refused (e : DecodeError) (s : State) (h : e ≠ .illegalSymbol) :
    undecoded e s = .refused (.notAnOperation e) := by
  cases e <;> first | rfl | exact absurd rfl h

end Sys2Proof.Machine
end

