-- ==== Sys2Proof/Laws/Flags.lean ====
section
/-! SUPPORT. The verdicts of Machine/Flags.lean in the terms the statements use: each as the proposition it decides. -/

namespace Sys2Proof.Machine

theorem inBand_iff (d : Nat) (b : Band) : inBand d b = true ↔ within d b := decide_eq_true_iff

theorem inBand_eq_false_iff (d : Nat) (b : Band) : inBand d b = false ↔ ¬within d b := decide_eq_false_iff_not

theorem checkPeriod_iff (c : Config) (total : Nat) : checkPeriod c total = true ↔ within total c.bitPeriod :=
  inBand_iff total c.bitPeriod

theorem hookConcerned_iff (c : Config) (dest : LogicalAddress) :
    hookConcerned c dest = true ↔ dest = 15 ∨ dest = c.ownAddr := decide_eq_true_iff

theorem acked_iff (dest : LogicalAddress) (a : Bit) : acked dest a = true ↔ dest = 15 ∨ a = 0 := decide_eq_true_iff

/-- `InArbWindow()` reads three registers (R165). -/
theorem inArbWindow_iff (s : State) : inArbWindow s = true ↔ InWindow s := by
  unfold inArbWindow InWindow; cases s.tx.state <;> simp

/-- `CLASSIFY_LOW` never answers a start bit (R113). -/
theorem classifyLow_ne_startBit (c : Config) (low : Nat) : classifyLow c low ≠ .startBit := by
  unfold classifyLow; split
  · simp
  · split <;> simp

/-- What `CLASSIFY_LOW` answers is a bit or a violation (R113). -/
theorem classifyLow_cases (c : Config) (low : Nat) :
    (classifyLow c low = .bitValue 0 ∧ within low c.bit0Low ∧ ¬within low c.bit1Low) ∨
    (classifyLow c low = .bitValue 1 ∧ within low c.bit1Low ∧ ¬within low c.bit0Low) ∨
    (classifyLow c low = .timingViolation ∧ (within low c.bit0Low ↔ within low c.bit1Low)) := by
  unfold classifyLow
  cases h0 : inBand low c.bit0Low <;> cases h1 : inBand low c.bit1Low <;>
    simp_all [inBand_iff, inBand_eq_false_iff]

end Sys2Proof.Machine
end

