-- ==== Sys2Proof/Laws/PerInstr.lean ====
section
/-! SUPPORT. The family `EncodedFormat`: the encoder gives each operation the format of its row (R95). -/

namespace Sys2Proof.Laws

/-- The record of an operation has the format the table gives the operation's row (R95). -/
def EncodedFormat.Statement (i : Instr) : Prop := (encode i).format = i.format

theorem EncodedFormat.start (low total : Nat) : EncodedFormat.Statement (.start low total) := rfl
theorem EncodedFormat.bit0 (low total : Nat) : EncodedFormat.Statement (.bit0 low total) := rfl
theorem EncodedFormat.bit1 (low total : Nat) : EncodedFormat.Statement (.bit1 low total) := rfl
theorem EncodedFormat.block (w : BitVec 10) : EncodedFormat.Statement (.block w) := rfl
theorem EncodedFormat.header (h : Byte) : EncodedFormat.Statement (.header h) := rfl
theorem EncodedFormat.eFall (t : Nat) : EncodedFormat.Statement (.eFall t) := rfl
theorem EncodedFormat.eRise (t : Nat) : EncodedFormat.Statement (.eRise t) := rfl
theorem EncodedFormat.eTimer (h : Nat) : EncodedFormat.Statement (.eTimer h) := rfl
theorem EncodedFormat.aSend (f : Frame) : EncodedFormat.Statement (.aSend f) := rfl
theorem EncodedFormat.aCancel (p : Nat) : EncodedFormat.Statement (.aCancel p) := rfl
theorem EncodedFormat.reset : EncodedFormat.Statement .reset := rfl
theorem EncodedFormat.driveBit (v : Bit) (b : Bool) : EncodedFormat.Statement (.driveBit v b) := rfl
theorem EncodedFormat.classifyLow (low : Nat) : EncodedFormat.Statement (.classifyLow low) := rfl
theorem EncodedFormat.checkPeriod (total : Nat) : EncodedFormat.Statement (.checkPeriod total) := rfl
theorem EncodedFormat.classifyPulse (low total : Nat) : EncodedFormat.Statement (.classifyPulse low total) := rfl
theorem EncodedFormat.encode (f : Frame) : EncodedFormat.Statement (.encode f) := rfl
theorem EncodedFormat.decode (bs : List Block) : EncodedFormat.Statement (.decode bs) := rfl
theorem EncodedFormat.txBit (i k : Nat) : EncodedFormat.Statement (.txBit i k) := rfl
theorem EncodedFormat.ackDecision (d : LogicalAddress) (i : Nat) : EncodedFormat.Statement (.ackDecision d i) := rfl
theorem EncodedFormat.lineWrite (l : Level) : EncodedFormat.Statement (.lineWrite l) := rfl
theorem EncodedFormat.lineRead : EncodedFormat.Statement .lineRead := rfl
theorem EncodedFormat.timerArm (d : Nat) : EncodedFormat.Statement (.timerArm d) := rfl
theorem EncodedFormat.now : EncodedFormat.Statement .now := rfl
theorem EncodedFormat.shouldAck (d : LogicalAddress) (i : Nat) : EncodedFormat.Statement (.shouldAck d i) := rfl
theorem EncodedFormat.deliver (f : Frame) : EncodedFormat.Statement (.deliver f) := rfl
theorem EncodedFormat.complete (h : Nat) (r : CompletionResult) : EncodedFormat.Statement (.complete h r) := rfl
theorem EncodedFormat.reply (r : ReplyValue) : EncodedFormat.Statement (.reply r) := rfl
theorem EncodedFormat.log : EncodedFormat.Statement .log := rfl

end Sys2Proof.Laws
end

