-- ==== Sys2Proof/Laws/Receive.lean ====
section
/-! SUPPORT. What each transition of Machine/Receive.lean does, as an equation with every field it changes. -/

namespace Sys2Proof.Machine

/-- The candidate is a start bit (R203). -/
theorem startRecognised_eq (t : Nat) (s : State) :
    startRecognised t s =
      { s with
        rx :=
          { s.rx with
            state := .receiveBlock, i := 0, k := 0, shift := 0, blocks := [], fall := some t, low := none,
            phase := .awaitRise, timer := some (s.env.armed + 1) },
        bus := { s.bus with lastInit := .other },
        env := { s.env with armed := s.env.armed + 1 },
        effects := s.effects ++ [.timerArm s.cfg.rxTimeout (s.env.armed + 1)] } := rfl

/-- An error at a falling edge while the line is not held: the registers are cleared and the edge is a new candidate
(R204, R205). -/
theorem violationReused_eq (t : Nat) (s : State) (h : s.rx.phase ≠ .hold) :
    raiseAndReuse .timingViolation t s =
      { s with
        rx :=
          { Rx.atReset with
            state := .detectStart, phase := .awaitRise, fall := some t, timer := some (s.env.armed + 1) },
        env := { s.env with armed := s.env.armed + 1 },
        effects := s.effects ++ [.timerArm s.cfg.rxTimeout (s.env.armed + 1)] } := by
  unfold raiseAndReuse raise
  simp only [rxAbort_silent s (fun hh => h hh.2)]
  rfl

/-- The rising edge of the candidate (R202). -/
theorem candidateRise_eq (t : Nat) (s : State) :
    candidateRise t s = { s with rx := { s.rx with low := some (cellTime t s), phase := .awaitFall } } := rfl

/-- A data bit (R207). -/
theorem dataBit_eq (b : Bit) (s : State) :
    dataBit b s =
      { s with rx := { s.rx with shift := shiftIn s.rx.shift b, k := s.rx.k + 1, phase := .awaitFall } } := rfl

/-- The EOM bit of a fifteenth block that is not the last (R208, R218). -/
theorem eomBit_tooLong (b : Bit) (s : State) (h : s.rx.i = 14 ∧ b = 0) (hp : s.rx.phase ≠ .hold) :
    eomBit b s = { s with rx := Rx.atReset } := by
  simp only [eomBit, h, and_self, if_true, raise]
  exact rxAbort_silent _ (fun hh => hp hh.2)

/-- The EOM bit of a frame the hook is not asked about (R208, R209). -/
theorem eomBit_unconcerned (b : Bit) (s : State) (h : ¬(s.rx.i = 14 ∧ b = 0))
    (hd : hookConcerned s.cfg (frameDest s.rx) = false) :
    eomBit b s =
      { s with
        rx := { s.rx with eom := b, dest := some (frameDest s.rx), state := .skipAck, phase := .awaitFall } } := by
  unfold eomBit
  refine (if_neg h).trans ?_
  simp [ackDecided, ackDecision, hd, setRx]

/-- The EOM bit of a frame the hook is asked about (R208, R209). -/
theorem eomBit_concerned (b : Bit) (s : State) (h : ¬(s.rx.i = 14 ∧ b = 0))
    (hd : hookConcerned s.cfg (frameDest s.rx) = true) :
    eomBit b s =
      { s with
        rx :=
          { s.rx with
            eom := b, dest := some (frameDest s.rx), phase := .awaitFall,
            state := if hookAnswer (frameDest s.rx) s.rx.i s.env then .driveAck else .skipAck },
        env := hookAnswered s.env,
        effects :=
          s.effects ++ [.shouldAck (frameDest s.rx) s.rx.i (hookAnswer (frameDest s.rx) s.rx.i s.env)] } := by
  unfold eomBit
  refine (if_neg h).trans ?_
  simp [ackDecided, ackDecision, hd, setRx, shouldAck_eq]

/-- A block that is not the last (R215). -/
theorem rxBlockDone_more (a : Bit) (s : State) (h : s.rx.eom ≠ 1) :
    rxBlockDone a s =
      { s with
        rx :=
          { s.rx with
            blocks := s.rx.blocks ++ [completedBlock a s.rx], i := s.rx.i + 1, k := 0, shift := 0, eom := 0,
            state := .receiveBlock, phase := .awaitFall } } := by
  unfold rxBlockDone
  exact if_neg h

/-- The last block of a frame (R215, R216). -/
theorem rxBlockDone_frame (a : Bit) (s : State) (f : Frame) (h : s.rx.eom = 1)
    (hf : decodeBlocks (s.rx.blocks ++ [completedBlock a s.rx]) = .frame f) :
    rxBlockDone a s = { s with rx := Rx.atReset, effects := s.effects ++ [.deliver f] } := by
  have hf' :
      decodeBlocks (setRx { s.rx with blocks := s.rx.blocks ++ [completedBlock a s.rx] } s).rx.blocks = .frame f := hf
  unfold rxBlockDone
  refine (if_pos h).trans ?_
  simp only [hf']
  rfl

/-- The hold of a driven acknowledge is over (R213). -/
theorem holdTimer_eq (s : State) :
    holdTimer s =
      { s with
        rx := { s.rx with phase := .awaitRise, timer := some (s.env.armed + 1) },
        bus := { s.bus with drive := .high }, env := { s.env with armed := s.env.armed + 1 },
        effects := s.effects ++ [.lineWrite .high, .timerArm s.cfg.rxTimeout (s.env.armed + 1)] } := by
  simp [holdTimer, armRx_eq, lineWrite_eq, setRx]

end Sys2Proof.Machine
end

