-- ==== Sys2Proof/Laws/Transmit.lean ====
section
/-! SUPPORT. What each shared transition of Machine/Transmit.lean does, as an equation with every field it changes. -/

namespace Sys2Proof.Machine

/-- `BeginBit()` (R160). -/
theorem beginBit_eq (s : State) :
    beginBit s =
      { s with
        tx := { s.tx with phase := .low, timer := some (s.env.armed + 1) },
        bus := { s.bus with drive := .low },
        env := { s.env with armed := s.env.armed + 1 },
        effects :=
          s.effects ++ [.lineWrite .low,
            .timerArm (bitLow s.cfg (txBit s.tx.i s.tx.k s)) (s.env.armed + 1)] } := by
  simp [beginBit, armTx_eq, lineWrite_eq, setTx]

/-- The ACK cell begins (R164). -/
theorem beginAck_eq (s : State) :
    beginAck s =
      { s with
        tx := { s.tx with state := .sampleAck, phase := .low, timer := some (s.env.armed + 1) },
        bus := { s.bus with drive := .low },
        env := { s.env with armed := s.env.armed + 1 },
        effects := s.effects ++ [.lineWrite .low, .timerArm s.cfg.bit1Low.nom (s.env.armed + 1)] } := by
  simp [beginAck, armTx_eq, lineWrite_eq, setTx]

/-- `TxStart()` with an idle receiver (R159). -/
theorem txStart_eq (s : State) (h : s.rx.state = .idle) :
    txStart s =
      { s with
        tx :=
          { s.tx with
            attempts := s.tx.attempts + 1, acks := [], state := .sendStartBit, phase := .low,
            timer := some (s.env.armed + 1) },
        bus := { s.bus with drive := .low },
        env := { s.env with armed := s.env.armed + 1 },
        effects := s.effects ++ [.lineWrite .low, .timerArm s.cfg.startLow.nom (s.env.armed + 1)] } := by
  simp [txStart, h, armTx_eq, lineWrite_eq, setTx]

/-- `TxStart()` with a reception in progress drops it first (R159). -/
theorem txStart_aborts (s : State) (h : s.rx.state ≠ .idle) : txStart s = txStart (rxAbort s) := by
  have h' : (rxAbort s).rx.state = .idle := by unfold rxAbort; split <;> rfl
  unfold txStart
  rw [if_neg h, if_pos h']

/-- A line that is released reads low: arbitration is lost (R165). -/
theorem releasedCheck_low (go : State → State) (s : State) (h : lineLevel s = .low) :
    releasedCheck go s = arbLoss (lineRead s) := by
  unfold releasedCheck raise; rw [if_pos h]

/-- A line that is released reads high: the transmission goes on (R165). -/
theorem releasedCheck_high (go : State → State) (s : State) (h : lineLevel s = .high) :
    releasedCheck go s = go (lineRead s) := by
  unfold releasedCheck; rw [if_neg (by rw [h]; simp)]

theorem windowCheck_inside (go : State → State) (s : State) (h : InWindow s) :
    windowCheck go s = releasedCheck go s := by
  unfold windowCheck; rw [if_pos ((inArbWindow_iff s).mpr h)]

theorem windowCheck_outside (go : State → State) (s : State) (h : ¬InWindow s) : windowCheck go s = go s := by
  unfold windowCheck; rw [if_neg (mt (inArbWindow_iff s).mp h)]

end Sys2Proof.Machine
end

