-- ==== Sys2Proof/Tests/Slice0.lean ====
section
/-! SUPPORT. The model's own tests: ill-formed terms refused, words written from the encodings decoded, single steps with
the expected values of spec/95_test_vectors.md (the vector's name stands in each comment), and for each statement with
hypotheses a concrete state and operands that meet them. -/

namespace Sys2Proof.Tests

open Sys2Proof.Machine

/-! ## Helpers -/

/-- The state a step answers, none when it stops. -/
def nextOf (o : Host.Outcome State Fault Refusal) : Option State :=
  match o with
  | .next s => some s
  | .fault _ => none
  | .refused _ => none

/-- Why a step is refused, none when it is not. -/
def refusalOf (o : Host.Outcome State Fault Refusal) : Option Refusal :=
  match o with
  | .next _ => none
  | .fault _ => none
  | .refused r => some r

/-- What the decoder gives, none when it refuses. -/
def decoded (r : Record) : Option Instr :=
  match decode Config.t1v r with
  | .ok i => some i
  | .error _ => none

/-- The frame of program P1. -/
def standby : Frame := { source := 15, destination := 15, payload := [0x36] }

/-- The frame of program P3. -/
def unicast : Frame := { source := 4, destination := 0, payload := [0x36] }

/-- The answers the environment has ready. -/
def ready (levels : List Level) (times : List Nat) (hooks : List Bool) (s : State) : State :=
  { s with env := { s.env with levels := levels, times := times, hooks := hooks } }

/-- A transmitter in mid-frame, with handle 0, after its first timer. -/
def sending (f : Frame) (state : TxState) (phase : TxPhase) (i k : Nat) (acks : List Bit) (attempts : Nat) : State :=
  { State.reset with
    tx :=
      { Tx.atReset with
        state := state, phase := phase, i := i, k := k, frame := some f, acks := acks, attempts := attempts,
        handle := some 0, seq := 1, timer := some 1 },
    env := { State.reset.env with armed := 1 } }

/-- The same with the line pulled low. -/
def pulling (s : State) : State := { s with bus := { s.bus with drive := .low } }

/-- A receiver in mid-frame, its current cell begun at 46100, after its first timer. -/
def receiving (state : RxState) (phase : RxPhase) (i k : Nat) (shift : Byte) (eom : Bit) (blocks : List Block)
    (dest : Option LogicalAddress) : State :=
  { State.reset with
    rx :=
      { Rx.atReset with
        state := state, phase := phase, i := i, k := k, fall := some 46100, shift := shift, eom := eom,
        blocks := blocks, dest := dest, timer := some 1 },
    env := { State.reset.env with armed := 1, lastEdge := 46100, clock := 46100 } }

/-- A frame waiting for the bus beside whatever the receiver does. -/
def waiting (s : State) : State :=
  { s with
    tx :=
      { Tx.atReset with
        state := .waitFreeTime, frame := some standby, handle := some 0, seq := 1, timer := some 2 },
    env := { s.env with armed := 2 } }

/-- The effects of a step, none when it stops. -/
def effectsOf (o : Host.Outcome State Fault Refusal) : Option (List Effect) := (nextOf o).map (·.effects)

/-- The result a step hands back, none when it stops. -/
def resultOf (o : Host.Outcome State Fault Refusal) : Option Result := (nextOf o).map (·.result)

/-! ## Ill-formed terms are refused -/

/-- 16 payload bytes do not fit the four-bit length of R91. -/
theorem test_wf_send : (Instr.aSend { standby with payload := List.replicate 16 0 }).wf Config.t1v = false := by decide
theorem test_wf_send_15 : (Instr.aSend { standby with payload := List.replicate 15 0 }).wf Config.t1v = true := by decide
theorem test_wf_start : (Instr.start 3499 4300).wf Config.t1v = false := by decide
theorem test_wf_bit0 : (Instr.bit0 600 2400).wf Config.t1v = false := by decide
theorem test_wf_bit1 : (Instr.bit1 600 2049).wf Config.t1v = false := by decide
theorem test_wf_encode : (Instr.encode { standby with payload := List.replicate 15 0 }).wf Config.t1v = false := by decide
theorem test_wf_txBit : (Instr.txBit 15 0).wf Config.t1v = false ∧ (Instr.txBit 0 9).wf Config.t1v = false := by decide
theorem test_wf_ackDecision : (Instr.ackDecision 4 15).wf Config.t1v = false := by decide
theorem test_wf_shouldAck : (Instr.shouldAck 4 15).wf Config.t1v = false := by decide
theorem test_wf_deliver : (Instr.deliver { standby with payload := List.replicate 15 0 }).wf Config.t1v = false := by decide
theorem test_wf_complete : (Instr.complete 0 (.done [])).wf Config.t1v = false := by decide
theorem test_wf_complete_16 : (Instr.complete 0 (.done (List.replicate 16 0))).wf Config.t1v = false := by decide

/-! ## Words written from the encodings -/

/-- B1, B10, B15: the symbols by their durations (R81). -/
theorem test_decode_cells :
    decoded (.cell 3700 4500) = some (.start 3700 4500) ∧ decoded (.cell 1500 2400) = some (.bit0 1500 2400) ∧
    decoded (.cell 600 2400) = some (.bit1 600 2400) := by decide
/-- B9, B22, B28: no symbol (R96). -/
theorem test_decode_no_symbol :
    decoded (.cell 3900 4701) = none ∧ decoded (.cell 1000 2400) = none ∧ decoded (.cell 3700 2400) = none := by decide
/-- K1: the word 0x3FD is the header block 0xFF with EOM 0 and ACK 1 (R84); its low byte comes first. -/
theorem test_decode_block : decoded (.block [0xFD, 0x03]) = some (.block 0b1111111101) := by decide
theorem test_decode_block_reserved_bits : decoded (.block [0x00, 0x04]) = none ∧ decoded (.block [0x00]) = none := by decide
theorem test_decode_header : decoded (.header 0x40) = some (.header 0x40) := by decide
/-- The tags of R90 with an operand of two bytes, 0x3039 = 12345. -/
theorem test_decode_events :
    decoded (.event [0, 0x39, 0x30]) = some (.eFall 12345) ∧ decoded (.event [1, 0x39, 0x30]) = some (.eRise 12345) ∧
    decoded (.event [2, 0x39, 0x30]) = some (.eTimer 12345) ∧ decoded (.event [4, 0x39, 0x30]) = some (.aCancel 12345) ∧
    decoded (.event [5]) = some .reset := by decide
/-- R91: `source, destination, len, payload`, the leftmost field in the most significant bits. -/
theorem test_decode_send :
    decoded (.event [3, 0x40, 0x13, 0x60]) = some (.aSend unicast) ∧
    decoded (.event [3, 0x04, 0x00]) = some (.aSend { source := 0, destination := 4, payload := [] }) := by decide
/-- R91: what follows the frame is no part of the event; the reserved length needs no payload. -/
theorem test_decode_send_bounds :
    decoded (.event [3, 0x40, 0x13, 0x6F, 0xFF]) = some (.aSend unicast) ∧
    decoded (.event [3, 0x40, 0xF0]) =
      some (.aSend { source := 4, destination := 0, payload := List.replicate 15 0 }) := by decide
/-- R97 (M6), and operands that are too short. -/
theorem test_decode_not_events :
    decoded (.event [6]) = none ∧ decoded (.event [7]) = none ∧ decoded (.event []) = none ∧
    decoded (.event [3, 0x40, 0x13]) = none ∧ decoded (.event [3, 0x40]) = none := by decide
theorem test_decode_functions :
    decoded (.call .driveBit [1, 0]) = some (.driveBit 1 false) ∧
    decoded (.call .classifyLow [600]) = some (.classifyLow 600) ∧
    decoded (.call .checkPeriod [2400]) = some (.checkPeriod 2400) ∧
    decoded (.call .classifyPulse [600, 2400]) = some (.classifyPulse 600 2400) ∧
    decoded (.call .encode [4, 0, 0x36]) = some (.encode unicast) ∧
    decoded (.call .decode [0x40, 0, 2, 0x36, 1, 0]) =
      some (.decode [{ data := 0x40, eom := 0, ack := none }, { data := 0x36, eom := 1, ack := some 0 }]) ∧
    decoded (.call .txBit [14, 8]) = some (.txBit 14 8) ∧
    decoded (.call .ackDecision [15, 3]) = some (.ackDecision 15 3) := by decide
/-- The numbers of R21 (levels), R93 (results) and R94 (error codes). -/
theorem test_decode_effects :
    decoded (.call .lineWrite [0]) = some (.lineWrite .low) ∧ decoded (.call .lineRead []) = some .lineRead ∧
    decoded (.call .timerArm [450]) = some (.timerArm 450) ∧ decoded (.call .now []) = some .now ∧
    decoded (.call .shouldAck [4, 1]) = some (.shouldAck 4 1) ∧
    decoded (.call .deliver [4, 0, 0x36]) = some (.deliver unicast) ∧
    decoded (.call .complete [7, 0, 1, 0]) = some (.complete 7 (.done [1, 0])) ∧
    decoded (.call .complete [7, 1, 3]) = some (.complete 7 (.failed .noAcknowledge)) ∧
    decoded (.call .reply [0, 9]) = some (.reply (.accepted 9)) ∧ decoded (.call .reply [3]) = some (.reply .notWithdrawn) ∧
    decoded (.call .log [6]) = some .log ∧ decoded (.call .log [5]) = none := by decide
/-- `withFetchWord` makes the next step run the word: tag 5 is `RESET`. -/
theorem test_fetch_word :
    effectsOf (step ((ready [] [500] [] State.reset).withFetchWord 8 5)) = some [.lineWrite .high, .now 500] := by decide

/-! ## Single steps -/

/-- B2. -/
theorem test_start : resultOf (exec (.start 3500 4300) State.reset) = some (.symbol .startBit 3700 4500) := by decide
/-- B12. -/
theorem test_bit0 : resultOf (exec (.bit0 1700 2750) State.reset) = some (.symbol (.bitValue 0) 1500 2400) := by decide
/-- B16. -/
theorem test_bit1 : resultOf (exec (.bit1 400 2050) State.reset) = some (.symbol (.bitValue 1) 600 2400) := by decide
/-- Section 3: `BlockUnpack(0x0DA) = (0x36, 1, 0)`. -/
theorem test_block :
    resultOf (exec (.block 0x0DA) State.reset) = some (.block { data := 0x36, eom := 1, ack := some 0 }) := by decide
/-- R89: the source is the high nibble. -/
theorem test_header : resultOf (exec (.header 0x4F) State.reset) = some (.header 4 15) := by decide
/-- Q22. -/
theorem test_fall_driven_ack :
    (nextOf (exec (.eFall 48500) (receiving .driveAck .awaitFall 0 8 0x04 0 [] (some 4)))).map
      (fun s => (s.effects, s.bus.drive, s.rx.phase, s.rx.fall)) =
    some ([.lineWrite .low, .timerArm 1500 2], .low, .hold, some 48500) := by decide
/-- T38: arbitration lost on an edge, the bus busy. -/
theorem test_fall_arbitration :
    (nextOf (exec (.eFall 16000) (ready [.low] [] [] (sending unicast .sendStartBit .high 0 0 [] 1)))).map
      (fun s => ((s.effects, s.tx.state, s.tx.ftClass), s.tx.err, s.tx.timer, s.bus.lastInit)) =
    some (([.lineRead .low], .waitFreeTime, .retry), some .arbitration, none, .other) := by decide
/-- Q14. -/
theorem test_rise_eom :
    (nextOf (exec (.eRise 47600) (ready [] [] [true] (receiving .receiveBlock .awaitRise 0 8 0x04 0 [] none)))).map
      (fun s => (s.effects, s.rx.state, s.rx.phase, s.rx.eom, s.rx.dest)) =
    some ([.shouldAck 4 0 true], .driveAck, .awaitFall, 0, some 4) := by decide
/-- M3: the receiver's effects come before the transmitter's. -/
theorem test_rise_delivers_then_arms :
    effectsOf (exec (.eRise 46700) (waiting (receiving .skipAck .awaitRise 0 8 0x0F 1 [] (some 15)))) =
    some [.deliver { source := 0, destination := 15, payload := [] }, .timerArm 12000 3] := by decide
/-- T25. -/
theorem test_timer_next_bit :
    (nextOf (exec (.eTimer 1) (sending standby .sendBlock .high 1 3 [1] 1))).map
      (fun s => (s.effects, s.tx.k, s.tx.phase, s.bus.drive)) =
    some ([.lineWrite .low, .timerArm 1500 2], 4, .low, .low) := by decide
/-- T34, with `bus_idle_since` 0: 0 + 16800 - 1800 = 15000. -/
theorem test_timer_retry :
    (nextOf (exec (.eTimer 1) (ready [.high] [1800] [] (sending unicast .sampleAck .postSample 0 8 [1] 1)))).map
      (fun s => ((s.effects, s.tx.state, s.tx.ftClass), s.tx.err, s.tx.acks, s.tx.attempts, s.bus.lastInit)) =
    some (([.lineRead .high, .now 1800, .timerArm 15000 2], .waitFreeTime, .retry), some .noAcknowledge, [], 1, .self) := by
  decide
/-- T1. -/
theorem test_send :
    (nextOf (exec (.aSend standby) (ready [.high] [100] [] State.reset))).map
      (fun s => ((s.effects, s.tx.state, s.tx.handle), s.tx.seq, s.tx.ftClass, s.tx.timer)) =
    some (([.reply (.accepted 0), .lineRead .high, .now 100, .timerArm 11900 1], .waitFreeTime, some 0), 1, .new, some 1) := by
  decide
/-- T6. -/
theorem test_send_too_long :
    effectsOf (exec (.aSend { standby with payload := List.replicate 15 0 }) State.reset) =
    some [.log, .reply .rejected] := by decide
/-- T7. -/
theorem test_cancel :
    (nextOf (exec (.aCancel 0) (waiting State.reset))).map (fun s => (s.effects, s.tx)) =
    some ([.reply .withdrawn], { Tx.atReset with seq := 1 }) := by decide
/-- T9. -/
theorem test_cancel_too_late :
    effectsOf (exec (.aCancel 0) (sending standby .sendBlock .low 0 0 [] 1)) = some [.log, .reply .notWithdrawn] := by decide
/-- Z2. -/
theorem test_reset :
    (nextOf (exec .reset (ready [] [13000] [] (pulling (sending standby .sendStartBit .low 0 0 [] 1))))).map
      (fun s => (s.effects, s.tx, s.bus)) =
    some ([.lineWrite .high, .now 13000], Tx.atReset, Bus.atReset 13000) := by decide
/-- B65. -/
theorem test_drive_start : resultOf (exec (.driveBit 0 true) State.reset) = some (.drive 3700 800 4500) := by decide
/-- B68. -/
theorem test_drive_one : resultOf (exec (.driveBit 1 false) State.reset) = some (.drive 600 1800 2400) := by decide
/-- B44, B45. -/
theorem test_classify_low :
    resultOf (exec (.classifyLow 800) State.reset) = some (.pulse (.bitValue 1)) ∧
    resultOf (exec (.classifyLow 801) State.reset) = some (.pulse .timingViolation) := by decide
/-- B72, B75: the bands overlap. -/
theorem test_classify_low_overlap :
    classifyLow { Config.t1v with bit1Low := ⟨400, 600, 1400⟩ } 1300 = .timingViolation ∧
    classifyLow { Config.t1v with bit1Low := ⟨400, 600, 1400⟩ } 1401 = .bitValue 0 := by decide
/-- B62, B63. -/
theorem test_check_period :
    resultOf (exec (.checkPeriod 2750) State.reset) = some (.bool true) ∧
    resultOf (exec (.checkPeriod 2751) State.reset) = some (.bool false) := by decide
/-- B4, B7. -/
theorem test_classify_pulse :
    resultOf (exec (.classifyPulse 3500 4700) State.reset) = some (.pulse .startBit) ∧
    resultOf (exec (.classifyPulse 3500 4299) State.reset) = some (.pulse .timingViolation) := by decide
/-- Section 2: a pair that is both a start bit and a data bit, and two that are one only. -/
theorem test_classify_pulse_both :
    let c := { Config.t1v with bit0Low := ⟨1300, 1500, 3600⟩, bitPeriod := ⟨2050, 2400, 4400⟩ }
    classifyPulse c 3550 4350 = .timingViolation ∧ classifyPulse c 3700 4500 = .startBit ∧
    classifyPulse c 3550 4200 = .bitValue 0 := by decide
/-- K3. -/
theorem test_encode :
    resultOf (exec (.encode { source := 4, destination := 0, payload := [0x8F] }) State.reset) =
    some (.blocks [{ data := 0x40, eom := 0, ack := none }, { data := 0x8F, eom := 1, ack := none }]) := by decide
/-- K11. -/
theorem test_decode_eom_early :
    resultOf (exec (.decode [{ data := 0xFF, eom := 1, ack := none }, { data := 0x36, eom := 0, ack := none }]) State.reset) =
    some (.decoded .invalidEom) := by decide
/-- K12: the ACK components are ignored. -/
theorem test_decode_frame :
    resultOf
      (exec (.decode [{ data := 0xFF, eom := 0, ack := some 1 }, { data := 0x36, eom := 1, ack := some 0 }]) State.reset) =
    some (.decoded (.frame standby)) := by decide
/-- Section 3: `TX_BIT(1, 0..8) = 0,0,1,1,0,1,1,0,1`. -/
theorem test_tx_bit :
    (List.range 9).map (fun k => resultOf (exec (.txBit 1 k) (sending standby .sendBlock .low 1 0 [1] 1))) =
    [0, 0, 1, 1, 0, 1, 1, 0, 1].map (fun b => some (.bit b)) := by decide
/-- Q16: the hook is not called for another device's frame. -/
theorem test_ack_decision_other :
    (nextOf (exec (.ackDecision 5 0) State.reset)).map (fun s => (s.effects, s.result)) = some ([], .bool false) := by decide
/-- Q18. -/
theorem test_ack_decision_broadcast :
    (nextOf (exec (.ackDecision 15 0) (ready [] [] [true] State.reset))).map (fun s => (s.effects, s.result)) =
    some ([.shouldAck 15 0 true], .bool true) := by decide
theorem test_line_write :
    (nextOf (exec (.lineWrite .low) State.reset)).map (fun s => (s.effects, s.bus.drive)) = some ([.lineWrite .low], .low) := by
  decide
/-- R60: low while the engine itself pulls low. -/
theorem test_line_read_own :
    resultOf (exec .lineRead (pulling (ready [.high] [] [] State.reset))) = some (.level .low) := by decide
theorem test_line_read_others :
    (nextOf (exec .lineRead (ready [.low, .high] [] [] State.reset))).map (fun s => (s.result, s.env.levels)) =
    some (.level .low, [.high]) := by decide
theorem test_timer_arm :
    (nextOf (exec (.timerArm 450) State.reset)).map (fun s => (s.effects, s.result)) =
    some ([.timerArm 450 1], .handle 1) := by decide
/-- R64: a clock that would go back is held at the latest edge. -/
theorem test_now :
    resultOf (exec .now (ready [] [100] [] (receiving .skipAck .awaitRise 0 8 0 0 [] (some 5)))) = some (.time 46100) := by
  decide
theorem test_should_ack :
    (nextOf (exec (.shouldAck 9 2) (ready [] [] [false] State.reset))).map (fun s => (s.effects, s.result)) =
    some ([.shouldAck 9 2 false], .bool false) := by decide
theorem test_effects :
    effectsOf (exec (.deliver unicast) State.reset) = some [.deliver unicast] ∧
    effectsOf (exec (.complete 3 (.failed .arbitration)) State.reset) = some [.complete 3 (.failed .arbitration)] ∧
    effectsOf (exec (.reply .withdrawn) State.reset) = some [.reply .withdrawn] ∧
    effectsOf (exec .log State.reset) = some [.log] := by decide

/-! ## The hypotheses of the statements are met

Each theorem `hypotheses_<Statement>` gives, for each clause of the statement, a state and operands that meet all the
hypotheses of the clause together, at a boundary of their range where there is one. -/

/-- A transmission in the first bit of block 1, with an `E_TIMER` presented. -/
def midSend : State := { pulling (sending standby .sendBlock .low 1 0 [1] 1) with inbox := [.event [2, 1]] }

/-- A reception in its last block's ACK cell, which the engine is about to drive. -/
def midReceive : State := receiving .driveAck .awaitFall 1 8 0x36 1 [{ data := 0x04, eom := 0, ack := some 0 }] (some 4)

/-- The same in the cell's high phase. -/
def lastRise : State := { midReceive with rx := { midReceive.rx with phase := .awaitRise } }

theorem midSend_inv : StateInv midSend where
  configOk := by decide
  txOk :=
    { legalOk := by decide, idleClear := by decide, budget := by decide, begun := by decide, waiting := by decide,
      frameFits := by rintro f ⟨⟩; decide, timed := by decide, acksSoFar := by decide,
      timerArmed := by rintro h ⟨⟩; decide, handleGiven := by rintro h ⟨⟩; decide }
  rxOk :=
    { legalOk := by decide, idleClear := by decide, blocksSoFar := by decide, timed := by decide,
      noEomYet := by decide, lengthLimit := by decide, destOfHeader := by decide, destOfShift := by decide,
      drivenIfConcerned := by decide, timerArmed := by rintro h ⟨⟩, fallSeen := by rintro h ⟨⟩ }
  halfDuplex := by decide
  timersApart := by rintro h ⟨⟩; decide
  clockSeen := by decide

/-- The invariants hold of a reception in its last block's ACK cell, in either phase. -/
theorem midReceive_inv (phase : RxPhase) (h : phase ≠ .hold) :
    StateInv { midReceive with rx := { midReceive.rx with phase := phase } } := by
  cases phase
  case hold => exact absurd rfl h
  all_goals exact
    { configOk := by decide
      txOk :=
        { legalOk := by decide, idleClear := by decide, budget := by decide, begun := by decide, waiting := by decide,
          frameFits := by rintro f ⟨⟩, timed := by decide, acksSoFar := by decide, timerArmed := by rintro h ⟨⟩,
          handleGiven := by rintro h ⟨⟩ }
      rxOk :=
        { legalOk := by decide, idleClear := by decide, blocksSoFar := by decide, timed := by decide,
          noEomYet := by decide, lengthLimit := by decide, destOfHeader := by rintro _ b ⟨⟩; rfl,
          destOfShift := by decide, drivenIfConcerned := by rintro _ d ⟨⟩; decide, timerArmed := by rintro h ⟨⟩; decide,
          fallSeen := by rintro h ⟨⟩; decide }
      halfDuplex := by decide
      timersApart := by rintro h ⟨⟩
      clockSeen := by decide }

theorem hypotheses_DecodeOfEncode :
    (Instr.start 3900 4700).wf Config.t1v = true ∧ (Instr.bit0 1300 2050).wf Config.t1v = true ∧
    (Instr.bit1 800 2750).wf Config.t1v = true ∧
    (Instr.aSend { unicast with payload := List.replicate 15 0xFF }).wf Config.t1v = true ∧
    (Instr.complete 0 (.done (List.replicate 15 1))).wf Config.t1v = true := by decide
theorem hypotheses_DecodedIsWellFormed : decode Config.t1v (.call .txBit [14, 8]) = .ok (.txBit 14 8) := rfl
theorem hypotheses_StepRunsTheDecodedOperation :
    midSend.inbox = .event [2, 1] :: [] ∧ decode midSend.cfg (.event [2, 1]) = .ok (.eTimer 1) ∧
    (Instr.eTimer 1).wf midSend.cfg = true := ⟨rfl, rfl, rfl⟩
theorem hypotheses_StepWithoutOperation :
    State.reset.inbox = [] ∧ configWf Config.t1v = true ∧ classifyPulse Config.t1v 1000 2400 = .timingViolation ∧
    decode Config.t1v (.event [3, 0x40, 0xE0]) = .error .operandTruncated ∧
    DecodeError.operandTruncated ≠ .illegalSymbol ∧ (6 : Byte).toNat ≥ 6 ∧ (255 : Byte).toNat ≥ 6 := by decide
theorem hypotheses_StepKeepsInvariants : StateInv midSend ∧ ∃ t, step midSend = .next t := ⟨midSend_inv, _, rfl⟩
theorem hypotheses_StepKeepsDriveInvariant :
    StateInv midSend ∧ DriveInv midSend ∧ midSend.bus.drive = .low ∧
    decode midSend.cfg (.event [2, 1]) ≠ .ok (.lineWrite .low) ∧ ∃ t, step midSend = .next t :=
  ⟨midSend_inv, by decide, rfl, nofun, _, rfl⟩
theorem hypotheses_EveryEventHasAResult :
    StateInv midReceive ∧ midReceive.env.lastEdge ≤ 46100 ∧ configWf midReceive.cfgIn = true :=
  ⟨midReceive_inv .awaitFall nofun, by decide, by decide⟩
theorem hypotheses_ReceiverUntouchedWhileTransmitting :
    txActive midSend = true ∧ midSend.tx.timer = some 1 ∧ (∃ t, exec (.eTimer 1) midSend = .next t) ∧
    ∃ t, exec (.eFall 0) midSend = .next t := ⟨rfl, rfl, ⟨_, rfl⟩, _, rfl⟩
theorem hypotheses_ConfigurationFixedEffectsInOrder :
    (∃ t, exec (.eTimer 1) midSend = .next t) ∧ ∃ t, exec .reset midSend = .next t := ⟨⟨_, rfl⟩, _, rfl⟩
theorem hypotheses_HandleCounterAndIdleSince :
    (∃ t, exec (.aSend standby) State.reset = .next t) ∧ (∃ t, exec (.eRise 0) State.reset = .next t) ∧
    ∃ t, exec (.eFall 0) State.reset = .next t := ⟨⟨_, rfl⟩, ⟨_, rfl⟩, _, rfl⟩
theorem hypotheses_WhenTheApplicationIsTold :
    effectsOf (exec (.eRise 47600) lastRise) = some [.deliver { source := 0, destination := 4, payload := [0x36] }] ∧
    effectsOf (exec (.eTimer 1) (sending standby .sampleAck .postSample 1 8 [1, 1] 1)) =
      some [.complete 0 (.done [1, 1])] ∧
    effectsOf (exec (.eFall 0) (sending standby .sendStartBit .high 0 0 [] 2)) =
      some [.complete 0 (.failed .arbitration)] := by decide
theorem hypotheses_UnaddressedNeverAcknowledged :
    StateInv midReceive ∧ midReceive.bus.drive = .high ∧
    (nextOf (exec (.eFall 48850) midReceive)).map (·.bus.drive) = some .low :=
  ⟨midReceive_inv .awaitFall nofun, rfl, by decide⟩
theorem hypotheses_IllFormedConfigurationRefused :
    configWf { Config.t1v with maxAttempts := 0 } = false ∧
    configWf { Config.t1v with startLow := ⟨3500, 4500, 4600⟩ } = false ∧
    configWf { Config.t1v with samplePoint := ⟨500, 599, 1250⟩ } = false := by decide
theorem hypotheses_UnreachableAndDisorderRefused :
    configWf Config.t1v = true ∧ legal (receiving .idle .hold 0 0 0 0 [] none) = false ∧
    Ready midReceive ∧ 46099 < midReceive.env.lastEdge := by decide
/-- For the statements whose only hypothesis is a well-formed configuration in force or presented. -/
theorem hypotheses_wellFormedConfiguration : configWf State.reset.cfg = true ∧ configWf State.reset.cfgIn = true := by
  decide
theorem hypotheses_ClassifyLowAndCheckPeriod :
    (within 1300 Config.t1v.bit0Low ∧ ¬within 1300 Config.t1v.bit1Low) ∧
    (within 800 Config.t1v.bit1Low ∧ ¬within 800 Config.t1v.bit0Low) ∧
    (within 1000 Config.t1v.bit0Low ↔ within 1000 Config.t1v.bit1Low) ∧
    within 2750 Config.t1v.bitPeriod ∧ ¬within 2751 Config.t1v.bitPeriod := by unfold within; decide
theorem hypotheses_ClassifyPulse :
    (within 3500 Config.t1v.startLow ∧ within 4300 Config.t1v.startTotal ∧ ¬within 4300 Config.t1v.bitPeriod) ∧
    (classifyLow Config.t1v 400 ≠ .timingViolation ∧ within 2050 Config.t1v.bitPeriod ∧
      ¬within 400 Config.t1v.startLow) ∧
    (¬within 3499 Config.t1v.startLow ∧ ¬within 4300 Config.t1v.bitPeriod) := by unfold within; decide
theorem hypotheses_TimingLaws :
    configWf Config.t1v = true ∧ classifyLow Config.t1v 800 = .bitValue 1 ∧
    classifyPulse Config.t1v 3900 4700 = .startBit ∧ Config.t1v.bit1Low.max < Config.t1v.bit0Low.min ∧
    within 1700 Config.t1v.bit0Low ∧
    (∀ v, ¬within (driveLow Config.t1v v false) Config.t1v.startLow) ∧
    ¬within Config.t1v.startTotal.nom Config.t1v.bitPeriod ∧
    ¬within 3000 Config.t1v.startTotal ∧ ¬within 3000 Config.t1v.bitPeriod := by unfold within; decide
theorem hypotheses_EncodeGivesTheBlocks : (List.replicate 14 (0 : Byte)).length ≤ 14 := by decide
theorem hypotheses_DecodeTestsInOrder :
    ([] : List Block).countP (fun b => b.eom = 1) = 0 ∧
    1 < [Block.mk 0xFF 1 none, Block.mk 0x36 1 none].countP (fun b => b.eom = 1) ∧
    ([Block.mk 0xFF 1 none, Block.mk 0x36 0 none].countP (fun b => b.eom = 1) = 1 ∧
      [Block.mk 0xFF 1 none, Block.mk 0x36 0 none].getLast?.map (·.eom) ≠ some 1) ∧
    (let bs := List.replicate 15 (Block.mk 0 0 none) ++ [Block.mk 0x99 1 none];
      bs.countP (fun b => b.eom = 1) = 1 ∧ bs.getLast?.map (·.eom) = some 1 ∧ 14 < bs.length - 1) ∧
    (let bs := List.replicate 14 (Block.mk 0 0 none) ++ [Block.mk 0x99 1 none];
      bs.countP (fun b => b.eom = 1) = 1 ∧ bs.getLast?.map (·.eom) = some 1 ∧ bs.length - 1 = 14) := by decide
theorem hypotheses_CodecRoundTrip :
    (List.replicate 14 (0 : Byte)).length ≤ 14 ∧
    decodeBlocks [Block.mk 0xFF 0 (some 1), Block.mk 0x36 1 (some 0)] = .frame standby := by decide
theorem hypotheses_TxBitOfTheLatchedFrame :
    midSend.tx.frame = some standby ∧ 1 ≤ standby.payload.length ∧ 8 ≤ 8 := by decide
theorem hypotheses_TxBitOutsideItsDomain :
    (∀ f, State.reset.tx.frame = some f → f.payload.length < 0 ∨ 8 < 0) ∧
    (∀ f, midSend.tx.frame = some f → f.payload.length < 2 ∨ 8 < 0) ∧
    (∀ f, midSend.tx.frame = some f → f.payload.length < 0 ∨ 8 < 9) :=
  ⟨nofun, by rintro f ⟨⟩; decide, by rintro f ⟨⟩; decide⟩
theorem hypotheses_CellsReassembleTheByte : 1 ≤ standby.payload.length := by decide
theorem hypotheses_TimerAndClock : StateInv midReceive := midReceive_inv .awaitFall nofun
theorem hypotheses_AcknowledgeHook :
    configWf State.reset.cfg = true ∧ ((14 : LogicalAddress) ≠ 15 ∧ (14 : LogicalAddress) ≠ State.reset.cfg.ownAddr) ∧
    (4 : LogicalAddress) = State.reset.cfg.ownAddr := by decide

/-! ### The Transmit State Machine -/

theorem hypotheses_SendRefused :
    Ready midSend ∧ midSend.tx.state ≠ .idle ∧ Ready State.reset ∧ 14 < (List.replicate 15 (0 : Byte)).length := by decide
theorem hypotheses_SendAccepted :
    Ready (ready [.low] [] [] State.reset) ∧ State.reset.tx.state = .idle ∧ (List.replicate 14 (0 : Byte)).length ≤ 14 ∧
    lineLevel (ready [.low] [] [] State.reset) = .low ∧ lineLevel (ready [.high] [] [] State.reset) = .high := by decide
theorem hypotheses_CancelRequest :
    let s := waiting State.reset
    Ready s ∧ (s.tx.state = .waitFreeTime ∧ s.tx.attempts = 0 ∧ s.tx.handle = some 0) ∧ s.tx.handle ≠ some 1 := by decide
theorem hypotheses_FreeTimeExpires :
    let s := fun l t => ready [l] [t] [] (waiting State.reset)
    TxTimerIn .waitFreeTime .low 2 (s .low 0) ∧ lineLevel (s .low 0) = .low ∧ lineLevel (s .high 12000) = .high ∧
    timeAnswer (levelAnswered (s .high 12000).env) = 12000 ∧ timeAnswer (levelAnswered (s .high 11999).env) < 12000 := by
  decide
theorem hypotheses_StartLowPhaseEnds :
    let s := fun l => ready [l] [] [] (pulling (sending standby .sendStartBit .low 0 0 [] 1))
    TxTimerIn .sendStartBit .low 1 (s .low) ∧ othersLevel (s .low).env = .low ∧ othersLevel (s .high).env = .high := by
  decide
theorem hypotheses_StartBitEnds :
    let s := fun l => ready [l] [] [] (sending standby .sendStartBit .high 0 0 [] 1)
    TxTimerIn .sendStartBit .high 1 (s .low) ∧ lineLevel (s .low) = .low ∧ lineLevel (s .high) = .high := by decide
theorem hypotheses_BitLowPhaseEnds :
    let s := fun l i => ready [l] [] [] (pulling (sending standby .sendBlock .low i 8 (List.replicate i 1) 1))
    TxTimerIn .sendBlock .low 1 (s .low 0) ∧ InWindow (s .low 0) ∧ othersLevel (s .low 0).env = .low ∧
    othersLevel (s .high 0).env = .high ∧ TxTimerIn .sendBlock .low 1 (s .low 1) ∧ ¬InWindow (s .low 1) := by decide
theorem hypotheses_BitCellEnds :
    let s := fun l i k => ready [l] [] [] (sending standby .sendBlock .high i k (List.replicate i 1) 1)
    TxTimerIn .sendBlock .high 1 (s .low 0 0) ∧ InWindow (s .low 0 0) ∧ lineLevel (s .low 0 0) = .low ∧
    TxTimerIn .sendBlock .high 1 (s .high 0 7) ∧ lineLevel (s .high 0 7) = .high ∧
    TxTimerIn .sendBlock .high 1 (s .high 0 8) ∧ TxTimerIn .sendBlock .high 1 (s .high 1 7) ∧
    TxTimerIn .sendBlock .high 1 (s .high 1 8) ∧ ¬InWindow (s .high 1 8) := by decide
theorem hypotheses_AckCellIsSampled :
    let s := fun l p => ready [l] [] [] (sending standby .sampleAck p 0 8 [] 1)
    TxTimerIn .sampleAck .low 1 (pulling (s .low .low)) ∧ TxTimerIn .sampleAck .preSample 1 (s .low .preSample) ∧
    lineLevel (s .low .preSample) = .low ∧ lineLevel (s .high .preSample) = .high := by decide
theorem hypotheses_AcknowledgedBlock :
    let s := fun f i acks => sending f .sampleAck .postSample i 8 acks 1
    TxTimerIn .sampleAck .postSample 1 (s standby 0 [1]) ∧ standby.destination = 15 ∧ 0 < standby.payload.length ∧
    TxTimerIn .sampleAck .postSample 1 (s standby 1 [1, 1]) ∧
    TxTimerIn .sampleAck .postSample 1 (s unicast 1 [0, 0]) ∧ [(0 : Bit), 0].getLast? = some 0 := by decide
theorem hypotheses_UnacknowledgedUnicast :
    let s := fun l n => ready [l] [1800] [] (sending unicast .sampleAck .postSample 0 8 [1] n)
    TxTimerIn .sampleAck .postSample 1 (s .high 2) ∧ unicast.destination ≠ 15 ∧
    (s .high 2).cfg.maxAttempts ≤ (s .high 2).tx.attempts ∧ (s .high 1).tx.attempts < (s .high 1).cfg.maxAttempts ∧
    lineLevel (s .low 1) = .low ∧ lineLevel (s .high 1) = .high ∧
    TxTimerIn .sampleAck .postSample 1 (s .high 1) := by decide
theorem hypotheses_ArbitrationLost :
    let s := fun l n => ready [l] [0] [] (sending unicast .sendStartBit .high 0 0 [] n)
    (pulling (s .low 1)).bus.drive = .low ∧ (s .high 2).bus.drive = .high ∧ (s .high 2).tx.handle = some 0 ∧ (s .high 2).cfg.maxAttempts ≤ (s .high 2).tx.attempts ∧
    (s .low 1).tx.attempts < (s .low 1).cfg.maxAttempts ∧ othersLevel (s .low 1).env = .low ∧
    othersLevel (s .high 1).env = .high := by decide
theorem hypotheses_EdgesWhileTransmitting :
    EdgeReady 0 midSend ∧ txActive midSend = true ∧ midSend.bus.drive = .low ∧
    (let s := sending standby .sendBlock .high 0 8 [] 1;
      EdgeReady 0 s ∧ txActive s = true ∧ s.bus.drive = .high ∧ InWindow s) ∧
    (let s := sending standby .sampleAck .preSample 0 8 [] 1;
      EdgeReady 0 s ∧ txActive s = true ∧ s.bus.drive = .high ∧ ¬InWindow s) := by decide
theorem hypotheses_EdgesWhileWaiting :
    let s := waiting (receiving .skipAck .awaitRise 0 8 0x0F 1 [] (some 15))
    EdgeReady 46100 s ∧ s.tx.state = .waitFreeTime ∧
    (nextOf (exec (.eFall 46100) { s with tx := Tx.atReset })).isSome = true ∧
    (nextOf (exec (.eRise 46100) { s with tx := Tx.atReset })).isSome = true := by decide
theorem hypotheses_BroadcastIsNeverUnacknowledged :
    TxTimerIn .sampleAck .postSample 1 (sending standby .sampleAck .postSample 1 8 [1, 1] 1) ∧
    standby.destination = 15 ∧
    (nextOf (exec (.eTimer 1) (sending standby .sampleAck .postSample 1 8 [1, 1] 1))).isSome = true := by decide

/-- R96: a cell of no symbol is `TimingViolation`. -/
theorem test_step_no_symbol :
    resultOf (step { State.reset with inbox := [.cell 1000 2400] }) = some (.pulse .timingViolation) := by decide
/-- R91: the reserved length is answered `Rejected`, with bytes missing and with bytes to spare. -/
theorem test_step_reserved_length :
    effectsOf (step { State.reset with inbox := [.event [3, 0x40, 0xF0]] }) = some [.log, .reply .rejected] ∧
    effectsOf (step { State.reset with inbox := [.event (3 :: 0x40 :: List.replicate 20 0xFF)] }) =
      some [.log, .reply .rejected] := by decide

/-! ### The Receive State Machine -/

theorem hypotheses_CandidateStartBit :
    RxEdgeIn .idle .awaitFall 0 State.reset ∧
    RxEdgeIn .idle .awaitFall 0 (waiting State.reset) ∧
    RxEdgeIn .detectStart .awaitRise 46100 (receiving .detectStart .awaitRise 0 0 0 0 [] none) := by decide
theorem hypotheses_FallEndsTheCandidate :
    let s := fun low => { receiving .detectStart .awaitFall 0 0 0 0 [] none with
      rx := { (receiving .detectStart .awaitFall 0 0 0 0 [] none).rx with low := some low } }
    RxEdgeIn .detectStart .awaitFall 50400 (s 3500) ∧ classifyPulse Config.t1v 3500 (50400 - 46100) = .startBit ∧
    RxEdgeIn .detectStart .awaitFall 50400 (s 3499) ∧ classifyPulse Config.t1v 3499 (50400 - 46100) ≠ .startBit := by
  decide
theorem hypotheses_FallBeginsACell :
    let s := fun st k dest => receiving st .awaitFall 0 k 0 0 [] dest
    RxEdgeIn .receiveBlock .awaitFall 48850 (s .receiveBlock 8 none) ∧
    RxEdgeIn .skipAck .awaitFall 48851 (s .skipAck 8 (some 5)) ∧
    within (48850 - 46100) Config.t1v.bitPeriod ∧ ¬within (48851 - 46100) Config.t1v.bitPeriod := by
  unfold within; decide
theorem hypotheses_FallBeginsADrivenAck :
    RxEdgeIn .driveAck .awaitFall 48150 midReceive ∧ within (48150 - 46100) Config.t1v.bitPeriod ∧
    RxEdgeIn .driveAck .awaitFall 48149 midReceive ∧ ¬within (48149 - 46100) Config.t1v.bitPeriod := by
  unfold within; decide
theorem hypotheses_RiseOfADataBit :
    let s := receiving .receiveBlock .awaitRise 0 7 0x40 0 [] none
    RxEdgeIn .receiveBlock .awaitRise 46500 s ∧ s.rx.k < 8 ∧ classifyLow s.cfg (46500 - 46100) = .bitValue 1 ∧
    RxEdgeIn .receiveBlock .awaitRise 46499 s ∧ classifyLow s.cfg (46499 - 46100) = .timingViolation := by decide
theorem hypotheses_RiseOfTheEomBit :
    let s := fun i dest => receiving .receiveBlock .awaitRise i 8 0x04 0 (List.replicate i (Block.mk 0x04 0 none)) dest
    RxEdgeIn .receiveBlock .awaitRise 47600 (s 0 none) ∧ (0x04 : Byte).extractLsb' 0 4 = (4 : LogicalAddress) ∧
    RxEdgeIn .receiveBlock .awaitRise 47600 (s 14 (some 5)) ∧ (s 14 (some 5)).rx.i ≠ 0 ∧
    classifyLow Config.t1v (47100 - 46100) = .timingViolation ∧ classifyLow Config.t1v (47600 - 46100) = .bitValue 0 ∧
    classifyLow Config.t1v (46700 - 46100) = .bitValue 1 ∧ (5 : LogicalAddress) ≠ Config.t1v.ownAddr := by decide
theorem hypotheses_BlockIsComplete :
    let s := fun st => receiving st .awaitRise 0 8 0x04 0 [] (some 4)
    RxEdgeIn .driveAck .awaitRise 46100 (s .driveAck) ∧ (s .driveAck).rx.eom = 0 ∧
    RxEdgeIn .skipAck .awaitRise 46900 (s .skipAck) ∧ classifyLow Config.t1v (46900 - 46100) = .bitValue 1 ∧
    RxEdgeIn .skipAck .awaitRise 46901 (s .skipAck) ∧ classifyLow Config.t1v (46901 - 46100) = .timingViolation := by
  decide
theorem hypotheses_LastBlockDeliversTheFrame :
    StateInv lastRise ∧ RxEdgeIn .driveAck .awaitRise 46100 lastRise ∧ lastRise.rx.fall = some 46100 ∧
    lastRise.rx.eom = 1 := ⟨midReceive_inv .awaitRise nofun, by decide, rfl, rfl⟩
theorem hypotheses_TimersOfTheReceiver :
    let s := fun p => receiving .driveAck p 0 8 0x04 0 [] (some 4)
    Ready (s .hold) ∧ (s .hold).tx.timer ≠ some 1 ∧ (s .hold).rx.timer = some 1 ∧
    Ready (s .awaitFall) ∧ (s .awaitFall).rx.timer = some 1 ∧ (s .awaitFall).rx.timer ≠ some 2 := by decide
theorem hypotheses_ReservedLengthIsRejected :
    (0xF0 : Byte).extractLsb' 4 4 = (15 : BitVec 4) ∧ (0xFF : Byte).extractLsb' 4 4 = (15 : BitVec 4) ∧
    Ready State.reset ∧ Ready midSend := by decide
theorem hypotheses_UnexpectedEdges :
    let s := receiving .driveAck .hold 0 8 0x04 0 [] (some 4)
    EdgeReady 46100 s ∧ txActive s = false ∧ s.rx.state ≠ .idle ∧ s.rx.phase ≠ .awaitFall ∧ s.rx.phase ≠ .awaitRise ∧
    EdgeReady 46100 (waiting s) ∧ txActive (waiting s) = false ∧ (waiting s).tx.state = .waitFreeTime ∧
    EdgeReady 0 State.reset ∧ State.reset.rx.state = .idle := by decide

end Sys2Proof.Tests
end

section
/-! PROOFS. What every operation but `RESET` leaves alone (R7, R73, R77), what an ill-formed configuration does (R8), and the
step as `exec` of the record it takes (R250). -/

namespace Sys2Proof.Machine

/-! ## A step runs the decoded operation -/

/-- What is taken from an inbox is its oldest record (R73). -/
theorem fetch_cons (s : State) (r : Record) (rest : List Record) (h : s.inbox = r :: rest) :
    fetch s = some (r, { s with inbox := rest }) := by
  unfold fetch; rw [h]

/-- A step on a record that decodes runs the operation (R250). -/
theorem step_of_decode_ok (s : State) (r : Record) (rest : List Record) (i : Instr) (h : s.inbox = r :: rest)
    (hd : decode s.cfg r = .ok i) : step s = exec i { s with inbox := rest } := by
  unfold step; simp only [fetch_cons s r rest h, hd]

/-- Settles O5: the step's own equation; that the operation is well-formed is not needed. -/
theorem stepRunsTheDecodedOperation : Obligations.StepRunsTheDecodedOperation :=
  fun s r rest i h hd _ => step_of_decode_ok s r rest i h hd

/-! ## Well-formed and ill-formed configurations -/

theorem bandWf_iff (b : Band) : bandWf b = true ↔ b.min ≤ b.nom ∧ b.nom ≤ b.max := decide_eq_true_iff

/-- `configWf` as the list of R8. -/
theorem configWf_iff (c : Config) :
    configWf c = true ↔
      (∀ b ∈ [c.startLow, c.startTotal, c.bit0Low, c.bit1Low, c.samplePoint, c.bitPeriod],
        b.min ≤ b.nom ∧ b.nom ≤ b.max) ∧
      c.startLow.nom < c.startTotal.nom ∧ c.bit0Low.nom < c.bitPeriod.nom ∧
      (c.bit1Low.nom ≤ c.samplePoint.nom ∧ c.samplePoint.nom ≤ c.bitPeriod.nom) ∧ 1 ≤ c.maxAttempts := by
  simp only [configWf, Bool.and_eq_true, decide_eq_true_iff, bandWf_iff, List.forall_mem_cons, List.not_mem_nil,
    false_imp_iff, implies_true, true_and, and_assoc]

/-- The differences armed as durations do not fall below zero (R8). -/
theorem armedDifferences_natural (c : Config) (h : configWf c = true) :
    c.startLow.nom ≤ c.startTotal.nom ∧ c.bit0Low.nom ≤ c.bitPeriod.nom ∧ c.bit1Low.nom ≤ c.bitPeriod.nom ∧
      c.bit1Low.nom ≤ c.samplePoint.nom ∧ c.samplePoint.nom ≤ c.bitPeriod.nom := by
  obtain ⟨-, hstart, hbit0, ⟨hbit1, hsample⟩, -⟩ := (configWf_iff c).mp h
  exact ⟨hstart.le, hbit0.le, hbit1.trans hsample, hbit1, hsample⟩

/-- An operation that reads an ill-formed configuration is refused (R8). -/
theorem configured_refused (s : State) (k : Host.Outcome State Fault Refusal) (h : configWf s.cfg = false) :
    configured s k = .refused .illFormedConfiguration := by
  unfold configured; rw [h]; rfl

/-- So is an event, whatever the sequencers hold (R8). -/
theorem admitted_refused (s : State) (k : Host.Outcome State Fault Refusal) (h : configWf s.cfg = false) :
    admitted s k = .refused .illFormedConfiguration := configured_refused s _ h

/-- `RESET` reads the configuration presented to it, not the one in force (R8, R320). -/
theorem execReset_refused (s : State) (h : configWf s.cfgIn = false) :
    execReset s = .refused .illFormedConfiguration := by
  unfold execReset; rw [h]; rfl

/-- Settles O16: each operation named is `configured` or `admitted`, and `RESET` has its own test. -/
theorem illFormedConfigurationRefused : Obligations.IllFormedConfigurationRefused := by
  refine ⟨configWf_iff, armedDifferences_natural, fun s h => ?_, execReset_refused⟩
  have event := fun k => admitted_refused s k h
  have function := fun k => configured_refused s k h
  exact ⟨fun _ => event _, fun _ => event _, fun _ => event _, fun _ => event _, fun _ => event _,
    fun _ _ => function _, fun _ _ => function _, fun _ _ => function _, fun _ _ => function _, fun _ => function _,
    fun _ => function _, fun _ _ => function _, fun _ _ => function _⟩

/-! ## The configuration is fixed and effects are appended -/

/-- What the engine does between two resets: both configurations and what is still to be handled stay, and effects are
appended (R7, R73, R77). -/
structure Continues (s t : State) : Prop where
  cfg : t.cfg = s.cfg
  cfgIn : t.cfgIn = s.cfgIn
  inbox : t.inbox = s.inbox
  effects : s.effects <+: t.effects

theorem Continues.refl (s : State) : Continues s s := ⟨rfl, rfl, rfl, List.prefix_rfl⟩

/-! Each operation continues what came before it. The lemmas take `Continues s t`, so that a composition of operations is
a chain of their lemmas. -/

section
variable {s t : State}

protected theorem Continues.setTx (h : Continues s t) (x : Tx) : Continues s (setTx x t) :=
  ⟨h.cfg, h.cfgIn, h.inbox, h.effects⟩

protected theorem Continues.setRx (h : Continues s t) (x : Rx) : Continues s (setRx x t) :=
  ⟨h.cfg, h.cfgIn, h.inbox, h.effects⟩

protected theorem Continues.setBus (h : Continues s t) (x : Bus) : Continues s (setBus x t) :=
  ⟨h.cfg, h.cfgIn, h.inbox, h.effects⟩

protected theorem Continues.setEnv (h : Continues s t) (x : Env) : Continues s (setEnv x t) :=
  ⟨h.cfg, h.cfgIn, h.inbox, h.effects⟩

protected theorem Continues.setResult (h : Continues s t) (x : Result) : Continues s (setResult x t) :=
  ⟨h.cfg, h.cfgIn, h.inbox, h.effects⟩

protected theorem Continues.emit (h : Continues s t) (e : Effect) : Continues s (emit e t) :=
  ⟨h.cfg, h.cfgIn, h.inbox, h.effects.trans (List.prefix_append _ _)⟩

/-! ### The access primitives -/

protected theorem Continues.lineWrite (h : Continues s t) (l : Level) : Continues s (lineWrite l t) :=
  (h.setBus _).emit _

protected theorem Continues.lineRead (h : Continues s t) : Continues s (lineRead t) := (h.setEnv _).emit _

protected theorem Continues.nowRead (h : Continues s t) : Continues s (nowRead t) := (h.setEnv _).emit _

protected theorem Continues.timerArm (h : Continues s t) (d : Nat) : Continues s (timerArm d t) := (h.setEnv _).emit _

protected theorem Continues.shouldAck (h : Continues s t) (dest : LogicalAddress) (i : Nat) :
    Continues s (shouldAck dest i t) := (h.setEnv _).emit _

protected theorem Continues.armTx (h : Continues s t) (d : Nat) : Continues s (armTx d t) := (h.timerArm d).setTx _

protected theorem Continues.armRx (h : Continues s t) (d : Nat) : Continues s (armRx d t) := (h.timerArm d).setRx _

/-! ### Leaving a machine, and errors -/

protected theorem Continues.rxAbort (h : Continues s t) : Continues s (rxAbort t) := by
  unfold rxAbort
  split
  · exact (h.lineWrite .high).setRx _
  · exact h.setRx _

protected theorem Continues.txToIdle (h : Continues s t) : Continues s (txToIdle t) := h.setTx _

protected theorem Continues.completeTx (h : Continues s t) (r : CompletionResult) : Continues s (completeTx r t) := by
  unfold completeTx
  split
  · exact h.emit _
  · exact h

protected theorem Continues.txDone (h : Continues s t) : Continues s (txDone t) :=
  ((h.setBus _).completeTx _).txToIdle

protected theorem Continues.enterWait (h : Continues s t) : Continues s (enterWait t) := by
  have read := (h.setTx (waitRegisters t.tx)).lineRead
  unfold enterWait
  dsimp only
  split
  · exact read.setTx _
  · exact read.nowRead.armTx _

protected theorem Continues.retry (h : Continues s t) (why : FailReason) : Continues s (retry why t) := by
  unfold retry
  split
  · exact ((h.setTx _).completeTx _).txToIdle
  · exact (h.setTx _).enterWait

protected theorem Continues.attemptFailed (h : Continues s t) (why : FailReason) (last : Initiator) :
    Continues s (attemptFailed why last t) := ((h.setTx _).setBus _).retry why

protected theorem Continues.arbLoss (h : Continues s t) : Continues s (arbLoss t) := by
  unfold arbLoss
  split
  · exact (h.lineWrite .high).attemptFailed _ _
  · exact h.attemptFailed _ _

/-- Taking an error does not touch the configuration, whichever error it is (R16, R287). -/
protected theorem Continues.raise (h : Continues s t) (e : ErrorKind) : Continues s (raise e t) := by
  cases e with
  | timingViolation => exact h.rxAbort
  | arbitration => exact h.arbLoss
  | noAcknowledge => exact h.attemptFailed _ _
  | truncated => exact h.rxAbort
  | invalidEom => exact h.rxAbort
  | invalidState => exact h.emit _

/-! ### The receiver -/

protected theorem Continues.rxIdleFall (h : Continues s t) (u : Nat) : Continues s (rxIdleFall u t) :=
  (h.setRx _).armRx _

protected theorem Continues.raiseAndReuse (h : Continues s t) (e : ErrorKind) (u : Nat) :
    Continues s (raiseAndReuse e u t) := (h.raise e).rxIdleFall u

protected theorem Continues.ackDecided (h : Continues s t) (dest : LogicalAddress) (i : Nat) :
    Continues s (ackDecided dest i t) := by
  unfold ackDecided
  split
  · exact h.shouldAck dest i
  · exact h

protected theorem Continues.candidateFall (h : Continues s t) (u : Nat) : Continues s (candidateFall u t) := by
  unfold candidateFall
  split
  · exact ((h.setBus _).setRx _).armRx _
  · exact h.raiseAndReuse _ u

protected theorem Continues.cellFall (h : Continues s t) (u : Nat) : Continues s (cellFall u t) := by
  unfold cellFall
  split
  · exact (h.setRx _).armRx _
  · exact h.raiseAndReuse _ u

protected theorem Continues.driveFall (h : Continues s t) (u : Nat) : Continues s (driveFall u t) := by
  unfold driveFall
  split
  · exact ((h.lineWrite .low).setRx _).armRx _
  · exact h.raiseAndReuse _ u

protected theorem Continues.rxFall (h : Continues s t) (u : Nat) : Continues s (rxFall u t) := by
  unfold rxFall
  split
  · exact h.rxIdleFall u
  · exact h.candidateFall u
  · exact h.cellFall u
  · exact h.cellFall u
  · exact h.driveFall u
  · exact h.raise _
  · exact h.raise _

protected theorem Continues.eomBit (h : Continues s t) (b : Bit) : Continues s (eomBit b t) := by
  unfold eomBit
  dsimp only
  split
  · exact (h.setRx _).raise _
  · exact ((h.setRx _).ackDecided _ _).setRx _

protected theorem Continues.cellRise (h : Continues s t) (u : Nat) : Continues s (cellRise u t) := by
  unfold cellRise
  split
  · split
    · exact h.setRx _
    · exact h.eomBit _
  · exact h.raise _
  · exact h.raise _

protected theorem Continues.rxBlockDone (h : Continues s t) (a : Bit) : Continues s (rxBlockDone a t) := by
  have noted := h.setRx { t.rx with blocks := t.rx.blocks ++ [completedBlock a t.rx] }
  unfold rxBlockDone
  dsimp only
  split
  · split
    · exact (noted.emit _).setRx _
    · exact noted.raise _
    · exact noted.raise _
  · exact noted.setRx _

protected theorem Continues.watchedRise (h : Continues s t) (u : Nat) : Continues s (watchedRise u t) := by
  unfold watchedRise
  split
  · exact h.rxBlockDone _
  · exact h.raise _
  · exact h.raise _

protected theorem Continues.rxRise (h : Continues s t) (u : Nat) : Continues s (rxRise u t) := by
  unfold rxRise
  split
  · exact h.raise _
  · exact h.setRx _
  · exact h.cellRise u
  · exact h.watchedRise u
  · exact h.rxBlockDone 0
  · exact h.raise _
  · exact h.raise _

protected theorem Continues.rxTimer (h : Continues s t) : Continues s (rxTimer t) := by
  unfold rxTimer
  split
  · exact ((h.lineWrite .high).setRx _).armRx _
  · exact h.raise _

/-! ### The transmitter -/

protected theorem Continues.beginBit (h : Continues s t) : Continues s (beginBit t) :=
  ((h.setTx _).lineWrite .low).armTx _

protected theorem Continues.releasedCheck (h : Continues s t) {go : State → State}
    (hgo : ∀ {u}, Continues s u → Continues s (go u)) : Continues s (releasedCheck go t) := by
  unfold releasedCheck
  split
  · exact h.lineRead.raise _
  · exact hgo h.lineRead

protected theorem Continues.windowCheck (h : Continues s t) {go : State → State}
    (hgo : ∀ {u}, Continues s u → Continues s (go u)) : Continues s (windowCheck go t) := by
  unfold windowCheck
  split
  · exact h.releasedCheck hgo
  · exact hgo h

protected theorem Continues.txStart (h : Continues s t) : Continues s (txStart t) := by
  have receiverIdle : Continues s (if t.rx.state = .idle then t else Machine.rxAbort t) := by
    split
    · exact h
    · exact h.rxAbort
  exact ((receiverIdle.setTx _).lineWrite .low).armTx _

protected theorem Continues.waitTimer (h : Continues s t) : Continues s (waitTimer t) := by
  unfold waitTimer
  dsimp only
  split
  · exact h.lineRead.setTx _
  · split
    · exact h.lineRead.nowRead.txStart
    · exact h.lineRead.nowRead.armTx _

protected theorem Continues.startLowTimer (h : Continues s t) : Continues s (startLowTimer t) :=
  (h.lineWrite .high).releasedCheck fun hu => (hu.setTx _).armTx _

protected theorem Continues.startHighTimer (h : Continues s t) : Continues s (startHighTimer t) :=
  h.releasedCheck fun hu => (hu.setTx _).beginBit

protected theorem Continues.bitLowTimer (h : Continues s t) : Continues s (bitLowTimer t) :=
  (h.lineWrite .high).windowCheck fun hu => (hu.setTx _).armTx _

protected theorem Continues.beginAck (h : Continues s t) : Continues s (beginAck t) :=
  ((h.setTx _).lineWrite .low).armTx _

protected theorem Continues.bitHighTimer (h : Continues s t) : Continues s (bitHighTimer t) := by
  refine h.windowCheck fun hu => ?_
  split
  · exact (hu.setTx _).beginBit
  · exact hu.beginAck

protected theorem Continues.ackVerdict (h : Continues s t) (f : Frame) (a : Bit) : Continues s (ackVerdict f a t) := by
  unfold ackVerdict
  split
  · exact h.raise _
  · split
    · exact h.txDone
    · exact (h.setTx _).beginBit

protected theorem Continues.ackEndTimer (h : Continues s t) : Continues s (ackEndTimer t) := by
  unfold ackEndTimer
  split
  · exact h.ackVerdict _ _
  · exact h

protected theorem Continues.txTimer (h : Continues s t) : Continues s (txTimer t) := by
  unfold txTimer
  split
  · exact h.waitTimer
  · exact h.startLowTimer
  · exact h.startHighTimer
  · exact h.bitLowTimer
  · exact h.bitHighTimer
  · exact ((h.lineWrite .high).setTx _).armTx _
  · exact (h.lineRead.setTx _).armTx _
  · exact h.ackEndTimer
  all_goals exact h

protected theorem Continues.txFall (h : Continues s t) : Continues s (txFall t) := by
  unfold txFall
  split
  · exact h
  · split
    · exact h.raise _
    · exact h.raise _

protected theorem Continues.dropWait (h : Continues s t) : Continues s (dropWait t) := by
  unfold dropWait
  split
  · exact h.setTx _
  · exact h

protected theorem Continues.rearmWait (h : Continues s t) : Continues s (rearmWait t) := by
  unfold rearmWait
  split
  · exact h.armTx _
  · exact h

protected theorem Continues.txBitDrawn (h : Continues s t) (i k : Nat) : Continues s (txBitDrawn i k t) := by
  unfold txBitDrawn
  split
  · exact h
  · exact h.setEnv _

/-! ### The events -/

protected theorem Continues.onSend (h : Continues s t) (f : Frame) : Continues s (onSend f t) := by
  unfold onSend
  split
  · exact (h.raise _).emit _
  · exact ((h.setTx _).emit _).enterWait

protected theorem Continues.onCancel (h : Continues s t) (p : Nat) : Continues s (onCancel p t) := by
  unfold onCancel
  split
  · exact h.txToIdle.emit _
  · exact (h.raise _).emit _

protected theorem Continues.onFall (h : Continues s t) (u : Nat) : Continues s (onFall u t) := by
  unfold onFall
  split
  · exact h.txFall
  · exact h.dropWait.rxFall u

protected theorem Continues.onRise (h : Continues s t) (u : Nat) : Continues s (onRise u t) := by
  have noted : Continues s (riseNoted u t) := h.setBus _
  unfold onRise
  split
  · exact noted
  · exact (noted.rxRise u).rearmWait

protected theorem Continues.onTimer (h : Continues s t) (n : Nat) : Continues s (onTimer n t) := by
  unfold onTimer
  split
  · exact h.txTimer
  · split
    · exact h.rxTimer
    · exact h

/-! ### The operations -/

/-- An operation that answers `u` and nothing else. -/
theorem continues_of_next {u : State} (hu : Continues s u)
    (h : (.next u : Host.Outcome State Fault Refusal) = .next t) : Continues s t := by
  cases h; exact hu

/-- An operation that reads the configuration (R8). -/
theorem continues_of_configured {u : State} (hu : Continues s u) (h : configured s (.next u) = .next t) :
    Continues s t :=
  continues_of_next hu (configured_next s t _ h).2

/-- An event (R8, R39). -/
theorem continues_of_admitted {u : State} (hu : Continues s u) (h : admitted s (.next u) = .next t) :
    Continues s t := by
  obtain ⟨-, -, hk⟩ := admitted_next s t _ h
  exact continues_of_next hu hk

/-- An edge event, refused when its timestamp is out of order (R303). -/
theorem continues_of_edge {n : Nat} {go : State → State} (hgo : Continues s (go (edgeSeen n s)))
    (h : admitted s (if edgeInOrder n s then .next (go (edgeSeen n s)) else .refused .timestampDecreased) = .next t) :
    Continues s t := by
  obtain ⟨-, -, hk⟩ := admitted_next s t _ h
  split at hk
  · exact continues_of_next hgo hk
  · cases hk

/-- No operation but `RESET` changes a configuration or the inbox, and none takes an effect back (R7, R73, R77). -/
theorem exec_continues (i : Instr) (hi : i ≠ .reset) (h : exec i s = .next t) : Continues s t := by
  have here := Continues.refl s
  cases i with
  | start low total => exact continues_of_configured (here.setResult _) h
  | bit0 low total => exact continues_of_configured (here.setResult _) h
  | bit1 low total => exact continues_of_configured (here.setResult _) h
  | block w => exact continues_of_next (here.setResult _) h
  | header b => exact continues_of_next (here.setResult _) h
  | eFall u => exact continues_of_edge ((here.setEnv _).onFall u) h
  | eRise u => exact continues_of_edge ((here.setEnv _).onRise u) h
  | eTimer n => exact continues_of_admitted (here.onTimer n) h
  | aSend f => exact continues_of_admitted (here.onSend f) h
  | aCancel p => exact continues_of_admitted (here.onCancel p) h
  | reset => exact absurd rfl hi
  | driveBit v b => exact continues_of_configured (here.setResult _) h
  | classifyLow low => exact continues_of_configured (here.setResult _) h
  | checkPeriod total => exact continues_of_configured (here.setResult _) h
  | classifyPulse low total => exact continues_of_configured (here.setResult _) h
  | encode f => exact continues_of_next (here.setResult _) h
  | decode bs => exact continues_of_next (here.setResult _) h
  | txBit j k => exact continues_of_next ((here.txBitDrawn j k).setResult _) h
  | ackDecision d j => exact continues_of_configured ((here.ackDecided d j).setResult _) h
  | lineWrite l => exact continues_of_next (here.lineWrite l) h
  | lineRead => exact continues_of_next (here.lineRead.setResult _) h
  | timerArm d => exact continues_of_next ((here.timerArm d).setResult _) h
  | now => exact continues_of_next (here.nowRead.setResult _) h
  | shouldAck d j => exact continues_of_next ((here.shouldAck d j).setResult _) h
  | deliver f => exact continues_of_next (here.emit _) h
  | complete p r => exact continues_of_next (here.emit _) h
  | reply r => exact continues_of_next (here.emit _) h
  | log => exact continues_of_next (here.emit _) h

end

/-- `RESET` that is not refused (R320). -/
theorem exec_reset_next (s t : State) (h : exec .reset s = .next t) : t = onReset s := by
  change execReset s = _ at h
  unfold execReset at h
  split at h
  · cases h; rfl
  · cases h

/-- `RESET` takes the configuration presented; everything else is continued (R320, log 10). -/
theorem onReset_continues (s : State) : Continues { s with cfg := s.cfgIn } (onReset s) :=
  ⟨rfl, rfl, rfl, ((Continues.refl s).lineWrite .high).effects.trans (List.prefix_append _ _)⟩

/-- Settles O12: `RESET` by itself, every other operation by `exec_continues`. -/
theorem configurationFixedEffectsInOrder : Obligations.ConfigurationFixedEffectsInOrder := by
  intro i s t h
  by_cases hi : i = .reset
  · subst hi
    obtain rfl := exec_reset_next s t h
    obtain ⟨hcfg, hcfgIn, hinbox, heffects⟩ := onReset_continues s
    exact ⟨fun hne => absurd rfl hne, fun _ => hcfg, hcfgIn, hinbox, heffects⟩
  · obtain ⟨hcfg, hcfgIn, hinbox, heffects⟩ := exec_continues i hi h
    exact ⟨fun _ => hcfg, fun hr => absurd hr hi, hcfgIn, hinbox, heffects⟩

end Sys2Proof.Machine
end

section
/-! PROOFS. What an operation and a step can do, once for all statements about every step: the six events, `LINE_WRITE`, and
everything else, which changes no register. -/

namespace Sys2Proof.Machine

/-! ## The environment's record -/

/-- The environment's record goes on: more timers may be armed and more time shown; no edge is delivered. -/
structure EnvGrows (v w : Env) : Prop where
  armed : v.armed ≤ w.armed
  lastEdge : w.lastEdge = v.lastEdge
  clock : v.clock ≤ w.clock

theorem EnvGrows.refl (v : Env) : EnvGrows v v := ⟨le_rfl, rfl, le_rfl⟩

theorem levelAnswered_grows (v : Env) : EnvGrows v (levelAnswered v) := ⟨by simp, by simp, by simp⟩

theorem hookAnswered_grows (v : Env) : EnvGrows v (hookAnswered v) := ⟨by simp, by simp, by simp⟩

/-- `Now` shows no less than what was shown before (R64). -/
theorem timeAnswered_grows (v : Env) : EnvGrows v (timeAnswered (timeAnswer v) v) :=
  ⟨by simp, by simp, by simpa using clock_le_timeAnswer v⟩

theorem armed_grows (v : Env) : EnvGrows v { v with armed := v.armed + 1 } := ⟨Nat.le_succ _, rfl, le_rfl⟩

/-! ## What an operation can do -/

/-- The engine's registers are left alone, and the environment's record goes on. -/
structure Aside (s t : State) : Prop where
  cfg : t.cfg = s.cfg
  tx : t.tx = s.tx
  rx : t.rx = s.rx
  bus : t.bus = s.bus
  env : EnvGrows s.env t.env

theorem Aside.refl (s : State) : Aside s s := ⟨rfl, rfl, rfl, rfl, .refl _⟩

/-- Handing back a value touches nothing. -/
theorem aside_setResult (x : Result) (s : State) : Aside s (setResult x s) := { Aside.refl s with }

theorem aside_emit (e : Effect) (s : State) : Aside s (emit e s) := { Aside.refl s with }

theorem aside_ackDecided (dest : LogicalAddress) (i : Nat) (s : State) : Aside s (ackDecided dest i s) := by
  unfold ackDecided
  split
  · exact { Aside.refl s with env := hookAnswered_grows s.env }
  · exact .refl s

theorem aside_txBitDrawn (i k : Nat) (s : State) : Aside s (txBitDrawn i k s) := by
  unfold txBitDrawn
  split
  · exact .refl s
  · exact { Aside.refl s with env := ⟨le_rfl, rfl, le_rfl⟩ }

/-- What an operation that is not refused does: the rows of R95 by what they can change. -/
inductive Does : Instr → State → State → Prop
  | fall {u : Nat} {s : State} (h : edgeInOrder u s = true) : Does (.eFall u) s (onFall u (edgeSeen u s))
  | rise {u : Nat} {s : State} (h : edgeInOrder u s = true) : Does (.eRise u) s (onRise u (edgeSeen u s))
  | timer {n : Nat} {s : State} : Does (.eTimer n) s (onTimer n s)
  | send {f : Frame} {s : State} : Does (.aSend f) s (onSend f s)
  | cancel {p : Nat} {s : State} : Does (.aCancel p) s (onCancel p s)
  | reset {s : State} (h : configWf s.cfgIn = true) : Does .reset s (onReset s)
  | write {l : Level} {s : State} : Does (.lineWrite l) s (lineWrite l s)
  /-- Wire formats, functions, reads and emitted effects. -/
  | aside {i : Instr} {s t : State} (hi : ∀ u, i ≠ .eRise u) (h : Aside s t) : Does i s t

section
variable {s t u : State}

/-- An operation that answers `u` and nothing else. -/
theorem eq_of_next (h : (.next u : Host.Outcome State Fault Refusal) = .next t) : t = u := by cases h; rfl

/-- An operation that reads the configuration and answers `u` (R8). -/
theorem eq_of_configured (h : configured s (.next u) = .next t) : t = u := eq_of_next (configured_next s t _ h).2

/-- An event that answers `u` (R8, R39). -/
theorem eq_of_admitted (h : admitted s (.next u) = .next t) : t = u := by
  obtain ⟨-, -, hk⟩ := admitted_next s t _ h
  exact eq_of_next hk

/-- An edge event is in order when it is not refused (R303). -/
theorem eq_of_edge {n : Nat} (h : admitted s (if edgeInOrder n s then .next u else .refused .timestampDecreased) = .next t) :
    edgeInOrder n s = true ∧ t = u := by
  obtain ⟨-, -, hk⟩ := admitted_next s t _ h
  split at hk
  · exact ⟨‹_›, eq_of_next hk⟩
  · cases hk

/-- An operation that answers a next state has done what its row of R95 can do. -/
theorem exec_does (i : Instr) (h : exec i s = .next t) : Does i s t := by
  cases i with
  | eFall n => obtain ⟨ho, rfl⟩ := eq_of_edge h; exact .fall ho
  | eRise n => obtain ⟨ho, rfl⟩ := eq_of_edge h; exact .rise ho
  | eTimer n => obtain rfl := eq_of_admitted h; exact .timer
  | aSend f => obtain rfl := eq_of_admitted h; exact .send
  | aCancel p => obtain rfl := eq_of_admitted h; exact .cancel
  | reset =>
    change execReset s = _ at h
    unfold execReset at h
    split at h
    · obtain rfl := eq_of_next h; exact .reset ‹_›
    · cases h
  | lineWrite l => obtain rfl := eq_of_next h; exact .write
  | start low total => obtain rfl := eq_of_configured h; exact .aside nofun (aside_setResult _ s)
  | bit0 low total => obtain rfl := eq_of_configured h; exact .aside nofun (aside_setResult _ s)
  | bit1 low total => obtain rfl := eq_of_configured h; exact .aside nofun (aside_setResult _ s)
  | block w => obtain rfl := eq_of_next h; exact .aside nofun (aside_setResult _ s)
  | header b => obtain rfl := eq_of_next h; exact .aside nofun (aside_setResult _ s)
  | driveBit v b => obtain rfl := eq_of_configured h; exact .aside nofun (aside_setResult _ s)
  | classifyLow low => obtain rfl := eq_of_configured h; exact .aside nofun (aside_setResult _ s)
  | checkPeriod total => obtain rfl := eq_of_configured h; exact .aside nofun (aside_setResult _ s)
  | classifyPulse low total => obtain rfl := eq_of_configured h; exact .aside nofun (aside_setResult _ s)
  | encode f => obtain rfl := eq_of_next h; exact .aside nofun (aside_setResult _ s)
  | decode bs => obtain rfl := eq_of_next h; exact .aside nofun (aside_setResult _ s)
  | txBit j k => obtain rfl := eq_of_next h; exact .aside nofun { aside_txBitDrawn j k s with }
  | ackDecision d j => obtain rfl := eq_of_configured h; exact .aside nofun { aside_ackDecided d j s with }
  | lineRead => obtain rfl := eq_of_next h; exact .aside nofun ⟨rfl, rfl, rfl, rfl, levelAnswered_grows _⟩
  | timerArm d => obtain rfl := eq_of_next h; exact .aside nofun ⟨rfl, rfl, rfl, rfl, armed_grows _⟩
  | now => obtain rfl := eq_of_next h; exact .aside nofun ⟨rfl, rfl, rfl, rfl, timeAnswered_grows _⟩
  | shouldAck d j => obtain rfl := eq_of_next h; exact .aside nofun ⟨rfl, rfl, rfl, rfl, hookAnswered_grows _⟩
  | deliver f => obtain rfl := eq_of_next h; exact .aside nofun (aside_emit _ s)
  | complete p r => obtain rfl := eq_of_next h; exact .aside nofun (aside_emit _ s)
  | reply r => obtain rfl := eq_of_next h; exact .aside nofun (aside_emit _ s)
  | log => obtain rfl := eq_of_next h; exact .aside nofun (aside_emit _ s)

/-! ## What a step can do -/

/-- A record that is no operation and is not refused is a cell of no symbol: it changes no register (R96). -/
theorem aside_of_undecoded {e : DecodeError} (h : undecoded e s = .next t) : Aside s t := by
  by_cases he : e = .illegalSymbol
  · subst he
    obtain rfl := eq_of_configured h
    exact aside_setResult _ s
  · rw [undecoded_refused e s he] at h
    cases h

/-- A step leaves the registers alone or runs the operation of the record it takes (R250, R308, R96). -/
theorem step_cases (h : step s = .next t) :
    Aside s t ∨ ∃ r rest i, s.inbox = r :: rest ∧ decode s.cfg r = .ok i ∧ exec i { s with inbox := rest } = .next t := by
  cases hin : s.inbox with
  | nil =>
    have hf : fetch s = none := by unfold fetch; rw [hin]
    unfold step at h
    simp only [hf] at h
    obtain rfl := eq_of_next h
    exact .inl (.refl _)
  | cons r rest =>
    cases hd : decode s.cfg r with
    | ok i =>
      rw [step_of_decode_ok s r rest i hin hd] at h
      exact .inr ⟨r, rest, i, rfl, hd, h⟩
    | error e =>
      unfold step at h
      simp only [fetch_cons s r rest hin, hd] at h
      exact .inl { aside_of_undecoded h with }

end

end Sys2Proof.Machine
end

section
/-! PROOFS. The registers the rules write keep what `TxInv` and `RxInv` say (R37, R39): one lemma per kind of write. -/

namespace Sys2Proof.Machine

/-! ## The legal combinations, state by state (R39) -/

section
variable {x : Tx}

theorem txLegal_waiting_iff (h : x.state = .waitFreeTime) :
    txLegal x = true ↔ x.i = 0 ∧ x.k = 0 ∧ x.phase = .low ∧ x.frame ≠ none ∧ x.handle ≠ none := by
  simp only [txLegal, h, decide_eq_true_iff]

theorem txLegal_startBit_iff (h : x.state = .sendStartBit) :
    txLegal x = true ↔
      x.i = 0 ∧ x.k = 0 ∧ (x.phase = .low ∨ x.phase = .high) ∧ x.frame ≠ none ∧ x.handle ≠ none := by
  simp only [txLegal, h, decide_eq_true_iff]

theorem txLegal_block_iff (h : x.state = .sendBlock) :
    txLegal x = true ↔
      x.i < blockCount x ∧ x.k ≤ 8 ∧ (x.phase = .low ∨ x.phase = .high) ∧ x.frame ≠ none ∧ x.handle ≠ none := by
  simp only [txLegal, h, decide_eq_true_iff]

theorem txLegal_ack_iff (h : x.state = .sampleAck) :
    txLegal x = true ↔
      x.i < blockCount x ∧ x.k = 8 ∧ x.phase ≠ .high ∧ x.frame ≠ none ∧ x.handle ≠ none ∧
        (x.phase = .postSample → x.acks ≠ []) := by
  simp only [txLegal, h, decide_eq_true_iff]

/-- A transaction has a frame and a handle (R151, R176). -/
theorem txLegal_transaction (h : txLegal x = true) (hs : x.state ≠ .idle) : x.frame ≠ none ∧ x.handle ≠ none := by
  cases hx : x.state with
  | idle => exact absurd hx hs
  | waitFreeTime => obtain ⟨-, -, -, hh⟩ := (txLegal_waiting_iff hx).mp h; exact hh
  | sendStartBit => obtain ⟨-, -, -, hh⟩ := (txLegal_startBit_iff hx).mp h; exact hh
  | sendBlock => obtain ⟨-, -, -, hh⟩ := (txLegal_block_iff hx).mp h; exact hh
  | sampleAck => obtain ⟨-, -, -, hf, hh, -⟩ := (txLegal_ack_iff hx).mp h; exact ⟨hf, hh⟩

/-- The transmitter is active in three of its states (R251). -/
theorem active_iff : active x = true ↔ x.state = .sendStartBit ∨ x.state = .sendBlock ∨ x.state = .sampleAck := by
  unfold active; cases x.state <;> simp

theorem ne_idle_of_active (h : active x = true) : x.state ≠ .idle := by
  intro hi
  simp [active, hi] at h

theorem active_of_waiting (h : x.state = .waitFreeTime) : active x = false := by simp [active, h]

end

section
variable {x : Rx}

theorem rxLegal_detect_iff (h : x.state = .detectStart) :
    rxLegal x = true ↔
      x.i = 0 ∧ x.k = 0 ∧ x.phase ≠ .hold ∧ x.fall ≠ none ∧ (x.phase = .awaitFall → x.low ≠ none) := by
  simp only [rxLegal, h, decide_eq_true_iff]

theorem rxLegal_block_iff (h : x.state = .receiveBlock) :
    rxLegal x = true ↔
      x.i ≤ 14 ∧ x.k ≤ 8 ∧ x.phase ≠ .hold ∧ x.fall ≠ none ∧ (x.i ≠ 0 → x.dest ≠ none) := by
  simp only [rxLegal, h, decide_eq_true_iff]

theorem rxLegal_driven_iff (h : x.state = .driveAck) :
    rxLegal x = true ↔ x.i ≤ 14 ∧ x.k = 8 ∧ x.fall ≠ none ∧ x.dest ≠ none := by
  simp only [rxLegal, h, decide_eq_true_iff]

theorem rxLegal_watched_iff (h : x.state = .skipAck) :
    rxLegal x = true ↔ x.i ≤ 14 ∧ x.k = 8 ∧ x.phase ≠ .hold ∧ x.fall ≠ none ∧ x.dest ≠ none := by
  simp only [rxLegal, h, decide_eq_true_iff]

theorem eomSeen_iff : eomSeen x = true ↔ x.state = .driveAck ∨ x.state = .skipAck := by
  unfold eomSeen; cases x.state <;> simp

theorem inBlock_of_eomSeen (h : eomSeen x = true) : inBlock x = true := by
  obtain hs | hs := eomSeen_iff.mp h <;> simp [inBlock, hs]

/-- In an ACK cell the block and the destination are in (R208). -/
theorem rxLegal_eomSeen (h : rxLegal x = true) (he : eomSeen x = true) :
    x.i ≤ 14 ∧ x.k = 8 ∧ x.fall ≠ none ∧ x.dest ≠ none := by
  obtain hs | hs := eomSeen_iff.mp he
  · exact (rxLegal_driven_iff hs).mp h
  · obtain ⟨hi, hk, -, hrest⟩ := (rxLegal_watched_iff hs).mp h
    exact ⟨hi, hk, hrest⟩

end

/-! ## The transmit registers -/

section
variable {c : Config} {m n : Nat} {x y : Tx}

theorem TxInv.mono (h : TxInv c n x) (hnm : n ≤ m) : TxInv c m x :=
  { h with timerArmed := fun k hk => (h.timerArmed k hk).trans hnm }

/-- The transmitter after a transaction, and after reset (R176, R38). -/
theorem txInv_idle (c : Config) (n seq : Nat) : TxInv c n { Tx.atReset with seq := seq } where
  legalOk := rfl
  idleClear := fun _ => rfl
  budget := fun hi => absurd rfl hi
  begun := nofun
  waiting := nofun
  frameFits := nofun
  timed := nofun
  acksSoFar := rfl
  timerArmed := nofun
  handleGiven := nofun

/-- A transaction that may begin another attempt (R173). -/
structure Pending (c : Config) (x : Tx) : Prop where
  frame : x.frame ≠ none
  handle : x.handle ≠ none
  frameFits : ∀ f ∈ x.frame, frameWf f = true
  handleGiven : ∀ h ∈ x.handle, h < x.seq
  budget : x.attempts < c.maxAttempts

theorem TxInv.pending (h : TxInv c n x) (hs : x.state ≠ .idle) (hb : x.attempts < c.maxAttempts) : Pending c x := by
  obtain ⟨hf, hh⟩ := txLegal_transaction h.legalOk hs
  exact ⟨hf, hh, h.frameFits, h.handleGiven, hb⟩

/-- A transaction waiting for the bus (R154), its timer armed or not. -/
theorem Pending.txInv_wait (p : Pending c x) (ht : ∀ k ∈ x.timer, k ≤ n) : TxInv c n (waitRegisters x) where
  legalOk := (txLegal_waiting_iff rfl).mpr ⟨rfl, rfl, rfl, p.frame, p.handle⟩
  idleClear := nofun
  budget := fun _ => p.budget.le
  begun := nofun
  waiting := fun _ => p.budget
  frameFits := p.frameFits
  timed := nofun
  acksSoFar := rfl
  timerArmed := ht
  handleGiven := p.handleGiven

/-- A waiting transaction loses its timer (R156, R158). -/
theorem TxInv.unarmed (h : TxInv c n x) (hs : x.state = .waitFreeTime) : TxInv c n { x with timer := none } :=
  { h with
    idleClear := fun hi => by simp [hs] at hi
    timed := fun ha => by simp [active, hs] at ha
    timerArmed := nofun }

/-- A transaction gets a new timer. -/
theorem TxInv.rearmed (h : TxInv c n x) (hs : x.state ≠ .idle) : TxInv c (n + 1) { x with timer := some (n + 1) } :=
  { h with
    idleClear := fun hi => absurd hi hs
    timed := nofun
    timerArmed := by rintro k ⟨⟩; exact le_rfl }

/-- An attempt begins (R159). -/
theorem TxInv.attempt (h : TxInv c n x) (hs : x.state = .waitFreeTime) :
    TxInv c (n + 1)
      { x with
        attempts := x.attempts + 1, acks := [], state := .sendStartBit, phase := .low, timer := some (n + 1) } := by
  obtain ⟨hi, hk, -, hf, hh⟩ := (txLegal_waiting_iff hs).mp h.legalOk
  exact
    { legalOk := (txLegal_startBit_iff rfl).mpr ⟨hi, hk, .inl rfl, hf, hh⟩
      idleClear := nofun
      budget := fun _ => h.waiting hs
      begun := fun _ => Nat.succ_pos _
      waiting := nofun
      frameFits := h.frameFits
      timed := nofun
      acksSoFar := hi.symm
      timerArmed := by rintro k ⟨⟩; exact le_rfl
      handleGiven := h.handleGiven }

/-- The registers `y` are a later point of the attempt that `x` is in: the transaction is the same, the sequencer is
legal, and one ACK bit is noted per ACK cell (R160 to R171). -/
structure LaterIn (x y : Tx) : Prop where
  frame : y.frame = x.frame
  handle : y.handle = x.handle
  seq : y.seq = x.seq
  attempts : y.attempts = x.attempts
  active : active y = true
  legal : txLegal y = true
  acks : y.acks.length = acksExpected y

/-- An attempt goes on, with a new timer (R160 to R171). -/
theorem TxInv.later (h : TxInv c n x) (ha : active x = true) (l : LaterIn x y) :
    TxInv c (n + 1) { y with timer := some (n + 1) } := by
  have notIdle := ne_idle_of_active l.active
  have notWaiting : y.state ≠ .waitFreeTime := fun hw => Bool.false_ne_true ((active_of_waiting hw).symm.trans l.active)
  exact
    { legalOk := l.legal
      idleClear := fun hi => absurd hi notIdle
      budget := fun _ => l.attempts ▸ h.budget (ne_idle_of_active ha)
      begun := fun _ => l.attempts ▸ h.begun ha
      waiting := fun hw => absurd hw notWaiting
      frameFits := l.frame ▸ h.frameFits
      timed := nofun
      acksSoFar := l.acks
      timerArmed := by rintro k ⟨⟩; exact le_rfl
      handleGiven := by
        show ∀ k ∈ y.handle, k < y.seq
        rw [l.handle, l.seq]
        exact h.handleGiven }

end

/-! ## The receive registers -/

section
variable {c : Config} {m n e e' : Nat} {x : Rx}

theorem RxInv.mono (h : RxInv c n e x) (hnm : n ≤ m) (he : e ≤ e') : RxInv c m e' x :=
  { h with
    timerArmed := fun k hk => (h.timerArmed k hk).trans hnm
    fallSeen := fun t ht => (h.fallSeen t ht).trans he }

/-- The receiver after a frame or an error, and after reset (R216, R38). -/
theorem rxInv_idle (c : Config) (n e : Nat) : RxInv c n e Rx.atReset where
  legalOk := rfl
  idleClear := fun _ => rfl
  blocksSoFar := nofun
  timed := fun hi => absurd rfl hi
  noEomYet := nofun
  lengthLimit := nofun
  destOfHeader := nofun
  destOfShift := nofun
  drivenIfConcerned := nofun
  timerArmed := nofun
  fallSeen := nofun

/-- A falling edge on an idle receiver (R201). -/
theorem rxInv_candidate (c : Config) {n e t : Nat} (ht : t ≤ e) :
    RxInv c n e
      { Rx.atReset with
        fall := some t, low := none, state := .detectStart, phase := .awaitRise, timer := some n } where
  legalOk := rfl
  idleClear := nofun
  blocksSoFar := nofun
  timed := nofun
  noEomYet := nofun
  lengthLimit := nofun
  destOfHeader := nofun
  destOfShift := nofun
  drivenIfConcerned := nofun
  timerArmed := by rintro k ⟨⟩; exact le_rfl
  fallSeen := by rintro u ⟨⟩; exact ht

/-- A start bit is recognised (R203). -/
theorem rxInv_startBit (c : Config) {n e t : Nat} (x : Rx) (ht : t ≤ e) :
    RxInv c n e
      { x with
        state := .receiveBlock, i := 0, k := 0, shift := 0, blocks := [], fall := some t, low := none,
        phase := .awaitRise, timer := some n } where
  legalOk := (rxLegal_block_iff rfl).mpr ⟨by simp, by simp, nofun, nofun, fun hi => absurd rfl hi⟩
  idleClear := nofun
  blocksSoFar := fun _ => rfl
  timed := nofun
  noEomYet := nofun
  lengthLimit := nofun
  destOfHeader := nofun
  destOfShift := nofun
  drivenIfConcerned := nofun
  timerArmed := by rintro k ⟨⟩; exact le_rfl
  fallSeen := by rintro u ⟨⟩; exact ht

/-- Within a pulse: the phase, its edge, its low duration and its timer move, the frame in progress does not (R202, R206,
R210, R212, R213). -/
theorem RxInv.pulse (h : RxInv c n e x) (hs : x.state ≠ .idle) {phase : RxPhase} {fall low timer : Option Nat}
    (legal : rxLegal { x with phase := phase, fall := fall, low := low, timer := timer } = true)
    (timed : timer ≠ none) (armed : ∀ k ∈ timer, k ≤ m) (seen : ∀ t ∈ fall, t ≤ e) :
    RxInv c m e { x with phase := phase, fall := fall, low := low, timer := timer } :=
  { h with
    legalOk := legal
    idleClear := fun hi => absurd hi hs
    timed := fun _ => timed
    timerArmed := armed
    fallSeen := seen }

/-- In the ACK cell the engine drives, every phase is legal (R39). -/
theorem RxInv.drivenPulse {k : Nat} (h : RxInv c n e x) (hs : x.state = .driveAck)
    (phase : RxPhase) {fall : Option Nat} (hf : fall ≠ none) (seen : ∀ v ∈ fall, v ≤ e) :
    RxInv c k e { x with phase := phase, fall := fall, low := x.low, timer := some k } := by
  obtain ⟨hi, hk, -, hd⟩ := (rxLegal_driven_iff hs).mp h.legalOk
  exact h.pulse (by simp [hs]) ((rxLegal_driven_iff (by exact hs)).mpr ⟨hi, hk, hf, hd⟩) nofun
    (by rintro j ⟨⟩; exact le_rfl) seen

/-- A data bit is in (R207). -/
theorem RxInv.dataBit (h : RxInv c n e x) (hs : x.state = .receiveBlock) (hk : x.k < 8) (b : Bit) :
    RxInv c n e { x with shift := shiftIn x.shift b, k := x.k + 1, phase := .awaitFall } := by
  obtain ⟨hi, -, -, hf, hd⟩ := (rxLegal_block_iff hs).mp h.legalOk
  exact
    { h with
      legalOk := (rxLegal_block_iff (by exact hs)).mpr ⟨hi, hk, nofun, hf, hd⟩
      idleClear := fun hi => by simp [hs] at hi
      destOfShift := fun he => by simp [eomSeen, hs] at he }

/-- The destination of the frame in progress, once its header is in (R31, R208). -/
theorem RxInv.frameDest_eq (h : RxInv c n e x) (hs : x.state = .receiveBlock) (hi : x.i ≠ 0) :
    x.dest = some (frameDest x) := by
  obtain ⟨-, -, -, -, hd⟩ := (rxLegal_block_iff hs).mp h.legalOk
  obtain ⟨d, hd⟩ := Option.ne_none_iff_exists'.mp (hd hi)
  simp [frameDest, hi, hd]

/-- The EOM bit is in, and the ACK cell is driven or watched (R208, R209, R218). -/
theorem RxInv.ackCell (h : RxInv c n e x) (hs : x.state = .receiveBlock) (hk : ¬x.k < 8) (b : Bit)
    (hb : ¬(x.i = 14 ∧ b = 0)) (drive : Bool) (hdrive : drive = true → hookConcerned c (frameDest x) = true) :
    RxInv c n e
      { x with
        eom := b, dest := some (frameDest x), state := if drive then .driveAck else .skipAck, phase := .awaitFall } := by
  obtain ⟨hi, hk8, -, hf, -⟩ := (rxLegal_block_iff hs).mp h.legalOk
  have hk' : x.k = 8 := by omega
  have inBlk : inBlock x = true := by simp [inBlock, hs]
  refine
    { legalOk := ?legalOk
      idleClear := fun hi => by cases drive <;> exact nomatch hi
      blocksSoFar := fun _ => h.blocksSoFar inBlk
      timed := fun _ => h.timed (by simp [hs])
      noEomYet := h.noEomYet
      lengthLimit := fun _ h14 => ?lengthLimit
      destOfHeader := fun _ d hd => ?destOfHeader
      destOfShift := fun _ h0 => by simp_all [frameDest]
      drivenIfConcerned := ?drivenIfConcerned
      timerArmed := h.timerArmed
      fallSeen := h.fallSeen }
  case legalOk =>
    cases drive
    · exact (rxLegal_watched_iff rfl).mpr ⟨hi, hk', nofun, hf, nofun⟩
    · exact (rxLegal_driven_iff rfl).mpr ⟨hi, hk', hf, nofun⟩
  case lengthLimit =>
    have : b ≠ 0 := fun h0 => hb ⟨h14, h0⟩
    show b = 1
    bv_omega
  case destOfHeader =>
    have started : x.i ≠ 0 := by
      rw [← h.blocksSoFar inBlk]
      intro h0
      rw [List.length_eq_zero_iff.mp h0] at hd
      cases hd
    exact (h.frameDest_eq hs started).symm.trans (h.destOfHeader inBlk d hd)
  case drivenIfConcerned =>
    cases drive
    · exact nofun
    · rintro - d ⟨⟩
      exact hdrive rfl

/-- A block is in that is not the last (R215). -/
theorem RxInv.nextBlock (h : RxInv c n e x) (hs : eomSeen x = true) (heom : x.eom ≠ 1) (a : Bit) :
    RxInv c n e
      { x with
        blocks := x.blocks ++ [completedBlock a x], i := x.i + 1, k := 0, shift := 0, eom := 0,
        state := .receiveBlock, phase := .awaitFall } := by
  obtain ⟨hi, -, hf, hd⟩ := rxLegal_eomSeen h.legalOk hs
  have notLast : x.i ≠ 14 := fun h14 => heom (h.lengthLimit hs h14)
  have inBlk := inBlock_of_eomSeen hs
  refine
    { legalOk := (rxLegal_block_iff rfl).mpr ⟨by show x.i + 1 ≤ 14; omega, by simp, nofun, hf, fun _ => hd⟩
      idleClear := nofun
      blocksSoFar := fun _ => by simp [h.blocksSoFar inBlk]
      timed := fun _ => h.timed (fun hi => by simp [eomSeen, hi] at hs)
      noEomYet := ?noEomYet
      lengthLimit := nofun
      destOfHeader := fun _ b hb => ?destOfHeader
      destOfShift := nofun
      drivenIfConcerned := nofun
      timerArmed := h.timerArmed
      fallSeen := h.fallSeen }
  case noEomYet =>
    intro b hb
    obtain hb | hb := List.mem_append.mp hb
    · exact h.noEomYet b hb
    · obtain rfl := List.mem_singleton.mp hb
      show x.eom = 0
      bv_omega
  case destOfHeader =>
    cases hbs : x.blocks with
    | nil =>
      have first : x.i = 0 := by rw [← h.blocksSoFar inBlk, hbs]; rfl
      rw [hbs] at hb
      cases hb
      exact h.destOfShift hs first
    | cons b0 bs =>
      rw [hbs] at hb
      cases hb
      exact h.destOfHeader inBlk b (by rw [hbs]; rfl)

end

end Sys2Proof.Machine
end

section
/-! PROOFS. Every step keeps the invariants of R37 but I2, and the legal combinations of R39 (O8). -/

namespace Sys2Proof.Machine

variable {s t : State}

/-! ## From the registers to the state -/

/-- The invariants speak of the configuration, the two register blocks and the environment's bounds only. -/
theorem StateInv.of_registers (h : StateInv s) (hcfg : t.cfg = s.cfg) (htx : t.tx = s.tx) (hrx : t.rx = s.rx)
    (henv : EnvGrows s.env t.env) : StateInv t where
  configOk := hcfg ▸ h.configOk
  txOk := by rw [hcfg, htx]; exact h.txOk.mono henv.armed
  rxOk := by rw [hcfg, hrx]; exact h.rxOk.mono henv.armed henv.lastEdge.ge
  halfDuplex := by unfold txActive; rw [htx, hrx]; exact h.halfDuplex
  timersApart := by rw [htx, hrx]; exact h.timersApart
  clockSeen := henv.lastEdge.trans_le (h.clockSeen.trans henv.clock)

theorem StateInv.aside (h : StateInv s) (a : Aside s t) : StateInv t := h.of_registers a.cfg a.tx a.rx a.env

theorem StateInv.setBus (h : StateInv s) (x : Bus) : StateInv (setBus x s) := h.of_registers rfl rfl rfl (.refl _)

theorem StateInv.emit (h : StateInv s) (e : Effect) : StateInv (emit e s) := h.of_registers rfl rfl rfl (.refl _)

theorem StateInv.lineWrite (h : StateInv s) (l : Level) : StateInv (lineWrite l s) :=
  h.of_registers rfl rfl rfl (.refl _)

theorem StateInv.lineRead (h : StateInv s) : StateInv (lineRead s) :=
  h.of_registers rfl rfl rfl (levelAnswered_grows _)

theorem StateInv.nowRead (h : StateInv s) : StateInv (nowRead s) := h.of_registers rfl rfl rfl (timeAnswered_grows _)

/-- An edge in order is delivered (R303). -/
theorem StateInv.edgeSeen (h : StateInv s) {u : Nat} (ho : edgeInOrder u s = true) : StateInv (edgeSeen u s) := by
  obtain ⟨hlast, -⟩ := of_decide_eq_true ho
  exact
    { configOk := h.configOk
      txOk := h.txOk
      rxOk := h.rxOk.mono le_rfl hlast
      halfDuplex := h.halfDuplex
      timersApart := h.timersApart
      clockSeen := le_max_right _ _ }

/-- What the invariants say beside the transmit registers. -/
structure ReceiverInv (s : State) : Prop where
  configOk : configWf s.cfg = true
  rxOk : RxInv s.cfg s.env.armed s.env.lastEdge s.rx
  clockSeen : s.env.lastEdge ≤ s.env.clock

theorem StateInv.receiver (h : StateInv s) : ReceiverInv s := ⟨h.configOk, h.rxOk, h.clockSeen⟩

theorem ReceiverInv.keep (h : ReceiverInv s) (hcfg : t.cfg = s.cfg) (hrx : t.rx = s.rx)
    (henv : EnvGrows s.env t.env) : ReceiverInv t where
  configOk := hcfg ▸ h.configOk
  rxOk := by rw [hcfg, hrx]; exact h.rxOk.mono henv.armed henv.lastEdge.ge
  clockSeen := henv.lastEdge.trans_le (h.clockSeen.trans henv.clock)

/-- The transmitter waits on no timer, or not beside an active receiver. -/
theorem ReceiverInv.inactive (h : ReceiverInv s) (htx : TxInv s.cfg s.env.armed s.tx) (ha : active s.tx = false)
    (apart : ∀ k ∈ s.tx.timer, s.rx.timer ≠ some k) : StateInv s where
  configOk := h.configOk
  txOk := htx
  rxOk := h.rxOk
  halfDuplex := fun hs => absurd (ha.symm.trans hs) Bool.false_ne_true
  timersApart := apart
  clockSeen := h.clockSeen

/-- The transmitter arms a timer, whose handle the receiver cannot hold (R301). -/
theorem ReceiverInv.armTx (h : ReceiverInv s) (d : Nat)
    (htx : TxInv s.cfg (s.env.armed + 1) { s.tx with timer := some (s.env.armed + 1) })
    (halfDuplex : active s.tx = true → s.rx.state = .idle) : StateInv (armTx d s) where
  configOk := h.configOk
  txOk := htx
  rxOk := h.rxOk.mono (Nat.le_succ _) le_rfl
  halfDuplex := halfDuplex
  timersApart := by
    rintro k ⟨⟩ held
    exact absurd (h.rxOk.timerArmed _ held) (Nat.not_succ_le_self _)
  clockSeen := h.clockSeen

/-- The receiver moves without a new timer. -/
theorem StateInv.rxMoved (h : StateInv s) (hcfg : t.cfg = s.cfg) (htx : t.tx = s.tx) (henv : EnvGrows s.env t.env)
    (hrx : RxInv s.cfg s.env.armed s.env.lastEdge t.rx) (halfDuplex : txActive s = true → t.rx.state = .idle)
    (ht : t.rx.timer = s.rx.timer ∨ t.rx.timer = none) : StateInv t where
  configOk := hcfg ▸ h.configOk
  txOk := by rw [hcfg, htx]; exact h.txOk.mono henv.armed
  rxOk := by rw [hcfg]; exact hrx.mono henv.armed henv.lastEdge.ge
  halfDuplex := by unfold txActive; rw [htx]; exact halfDuplex
  timersApart := by
    obtain ht | ht := ht <;> rw [htx, ht]
    · exact h.timersApart
    · exact fun _ _ => nofun
  clockSeen := henv.lastEdge.trans_le (h.clockSeen.trans henv.clock)

/-- The receiver arms a timer, whose handle the transmitter cannot hold (R301). -/
theorem StateInv.armRx (h : StateInv s) (d : Nat) (hcfg : t.cfg = s.cfg) (htx : t.tx = s.tx) (henv : t.env = s.env)
    (hrx : RxInv s.cfg (s.env.armed + 1) s.env.lastEdge { t.rx with timer := some (s.env.armed + 1) })
    (inactive : txActive s = false) : StateInv (armRx d t) where
  configOk := hcfg ▸ h.configOk
  txOk := by
    show TxInv t.cfg (t.env.armed + 1) t.tx
    rw [hcfg, htx, henv]
    exact h.txOk.mono (Nat.le_succ _)
  rxOk := by
    show RxInv t.cfg (t.env.armed + 1) t.env.lastEdge { t.rx with timer := some (t.env.armed + 1) }
    rw [hcfg, henv]
    exact hrx
  halfDuplex := by
    show active t.tx = true → _
    rw [htx]
    exact fun ha => absurd (inactive.symm.trans ha) Bool.false_ne_true
  timersApart := by
    show ∀ k ∈ t.tx.timer, some (t.env.armed + 1) ≠ some k
    rw [htx, henv]
    rintro k hk ⟨⟩
    exact absurd (h.txOk.timerArmed _ hk) (Nat.not_succ_le_self _)
  clockSeen := by
    show t.env.lastEdge ≤ t.env.clock
    rw [henv]
    exact h.clockSeen

/-! ## Leaving a machine -/

/-- A reception is dropped (R205, R216). -/
theorem StateInv.rxAbort (h : StateInv s) : StateInv (rxAbort s) := by
  unfold Machine.rxAbort
  split
  · exact h.rxMoved rfl rfl (.refl _) (rxInv_idle _ _ _) (fun _ => rfl) (.inr rfl)
  · exact h.rxMoved rfl rfl (.refl _) (rxInv_idle _ _ _) (fun _ => rfl) (.inr rfl)

/-- After `RxAbort()` the receive registers have their reset values (R205). -/
theorem rxAbort_rx (s : State) : (rxAbort s).rx = Rx.atReset := by unfold rxAbort; split <;> rfl

theorem rxAbort_tx (s : State) : (rxAbort s).tx = s.tx := by unfold rxAbort; split <;> rfl

theorem rxAbort_cfg (s : State) : (rxAbort s).cfg = s.cfg := by unfold rxAbort; split <;> rfl

theorem rxAbort_env (s : State) : (rxAbort s).env = s.env := by unfold rxAbort; split <;> rfl

/-- A completion is an effect, or nothing (R66). -/
theorem completeTx_cases (r : CompletionResult) (s : State) :
    completeTx r s = s ∨ ∃ p, completeTx r s = Machine.emit (.complete p r) s := by
  unfold completeTx
  split
  · exact .inr ⟨_, rfl⟩
  · exact .inl rfl

theorem ReceiverInv.completeTx (h : ReceiverInv s) (r : CompletionResult) : ReceiverInv (completeTx r s) := by
  obtain he | ⟨p, he⟩ := completeTx_cases r s
  · rw [he]; exact h
  · rw [he]; exact h.keep rfl rfl (.refl _)

/-- A transaction is over (R176). -/
theorem ReceiverInv.txToIdle (h : ReceiverInv s) : StateInv (txToIdle s) :=
  ReceiverInv.inactive (h.keep rfl rfl (.refl _)) (txInv_idle _ _ _) rfl nofun

theorem ReceiverInv.txDone (h : ReceiverInv s) : StateInv (txDone s) := by
  have noted : ReceiverInv (Machine.setBus { s.bus with lastInit := .self } s) := h.keep rfl rfl (.refl _)
  exact (noted.completeTx _).txToIdle

/-- A transaction begins to wait (R154). -/
theorem ReceiverInv.enterWait (h : ReceiverInv s) (p : Pending s.cfg s.tx) : StateInv (enterWait s) := by
  have read : ReceiverInv (Machine.lineRead (setTx (waitRegisters s.tx) s)) :=
    h.keep rfl rfl (levelAnswered_grows _)
  have timed : ReceiverInv (Machine.nowRead (Machine.lineRead (setTx (waitRegisters s.tx) s))) :=
    read.keep rfl rfl (timeAnswered_grows _)
  have untimed : ∀ n, TxInv s.cfg n { waitRegisters s.tx with timer := none } := fun n =>
    Pending.txInv_wait (x := { s.tx with timer := none }) { p with } nofun
  unfold Machine.enterWait
  dsimp only
  split
  · exact ReceiverInv.inactive (read.keep rfl rfl (.refl _)) (untimed _) rfl nofun
  · exact timed.armTx _ ((untimed _).rearmed nofun) nofun

/-- Another attempt, or the end of the transaction (R173, R174). -/
theorem ReceiverInv.retry (h : ReceiverInv s) (why : FailReason)
    (p : s.tx.attempts < s.cfg.maxAttempts → Pending s.cfg s.tx) : StateInv (retry why s) := by
  have cleared : ∀ x, ReceiverInv (setTx x s) := fun x => h.keep rfl rfl (.refl _)
  obtain hlast | hmore := Nat.lt_or_ge s.tx.attempts s.cfg.maxAttempts |>.symm
  · rw [retry_exhausted why s hlast]
    exact ((cleared _).completeTx _).txToIdle
  · rw [retry_again why s hmore]
    exact (cleared _).enterWait { p hmore with }

/-- An attempt fails (R171, R175). -/
theorem StateInv.attemptFailed (h : StateInv s) (ha : txActive s = true) (why : FailReason) (last : Initiator) :
    StateInv (attemptFailed why last s) := by
  have noted : ReceiverInv (Machine.setBus { s.bus with lastInit := last } (setTx { s.tx with err := some why } s)) :=
    h.receiver.keep rfl rfl (.refl _)
  exact noted.retry why fun hmore => { h.txOk.pending (ne_idle_of_active ha) hmore with }

theorem StateInv.arbLoss (h : StateInv s) (ha : txActive s = true) : StateInv (arbLoss s) := by
  unfold Machine.arbLoss
  split
  · exact (h.lineWrite .high).attemptFailed ha _ _
  · exact h.attemptFailed ha _ _

/-! ## The receiver -/

section
variable {u : Nat}

/-- A falling edge on an idle receiver (R201). -/
theorem StateInv.rxIdleFall (h : StateInv s) (ha : txActive s = false) (hs : s.rx.state = .idle)
    (hu : u ≤ s.env.lastEdge) : StateInv (rxIdleFall u s) := by
  refine h.armRx (t := setRx _ s) _ rfl rfl rfl ?_ ha
  show RxInv _ _ _ { s.rx with fall := some u, low := none, state := .detectStart, phase := .awaitRise, timer := _ }
  rw [h.rxOk.idleClear hs]
  exact rxInv_candidate _ hu

/-- An error at a falling edge (R204). -/
theorem StateInv.violationReused (h : StateInv s) (ha : txActive s = false) (hu : u ≤ s.env.lastEdge) :
    StateInv (raiseAndReuse .timingViolation u s) := by
  have aborted : StateInv (raise .timingViolation s) := h.rxAbort
  refine aborted.rxIdleFall ?_ ?_ ?_
  · exact (congrArg active (rxAbort_tx s)).trans ha
  · exact congrArg Rx.state (rxAbort_rx s)
  · exact hu.trans_eq (congrArg Env.lastEdge (rxAbort_env s)).symm

/-- The falling edge that ends the candidate start pulse (R203). -/
theorem StateInv.candidateFall (h : StateInv s) (ha : txActive s = false) (hu : u ≤ s.env.lastEdge) :
    StateInv (candidateFall u s) := by
  unfold Machine.candidateFall
  split
  · exact h.armRx (t := setRx _ (Machine.setBus _ s)) _ rfl rfl rfl (rxInv_startBit _ _ hu) ha
  · exact h.violationReused ha hu

/-- A falling edge that begins a watched cell of a frame (R206, R210). -/
theorem StateInv.cellFall (h : StateInv s) (ha : txActive s = false) (hu : u ≤ s.env.lastEdge)
    (hs : s.rx.state = .receiveBlock ∨ s.rx.state = .skipAck) : StateInv (cellFall u s) := by
  have legal : ∀ n,
      rxLegal { s.rx with phase := .awaitRise, fall := some u, low := s.rx.low, timer := some n } = true := by
    intro n
    obtain hs | hs := hs
    · obtain ⟨hi, hk, -, -, hd⟩ := (rxLegal_block_iff hs).mp h.rxOk.legalOk
      exact (rxLegal_block_iff (by exact hs)).mpr ⟨hi, hk, nofun, nofun, hd⟩
    · obtain ⟨hi, hk, -, -, hd⟩ := (rxLegal_watched_iff hs).mp h.rxOk.legalOk
      exact (rxLegal_watched_iff (by exact hs)).mpr ⟨hi, hk, nofun, nofun, hd⟩
  have notIdle : s.rx.state ≠ .idle := by obtain hs | hs := hs <;> simp [hs]
  unfold Machine.cellFall
  split
  · exact h.armRx (t := setRx _ s) _ rfl rfl rfl
      (h.rxOk.pulse notIdle (legal _) nofun (by rintro k ⟨⟩; exact le_rfl) (by rintro v ⟨⟩; exact hu)) ha
  · exact h.violationReused ha hu

/-- The falling edge of the ACK cell the engine drives (R212). -/
theorem StateInv.driveFall (h : StateInv s) (ha : txActive s = false) (hu : u ≤ s.env.lastEdge)
    (hs : s.rx.state = .driveAck) : StateInv (driveFall u s) := by
  unfold Machine.driveFall
  split
  · exact h.armRx (t := setRx _ (Machine.lineWrite .low s)) _ rfl rfl rfl
      (h.rxOk.drivenPulse hs .hold nofun (by rintro v ⟨⟩; exact hu)) ha
  · exact h.violationReused ha hu

/-- A falling edge that reaches the receiver (R252). -/
theorem StateInv.rxFall (h : StateInv s) (ha : txActive s = false) (hu : u ≤ s.env.lastEdge) :
    StateInv (rxFall u s) := by
  unfold Machine.rxFall
  split
  next hs => exact h.rxIdleFall ha hs hu
  next => exact h.candidateFall ha hu
  next hs _ => exact h.cellFall ha hu (.inl hs)
  next hs _ => exact h.cellFall ha hu (.inr hs)
  next hs _ => exact h.driveFall ha hu hs
  next => exact h.emit _
  next => exact h.emit _

/-- The rising edge of the candidate start pulse (R202). -/
theorem StateInv.candidateRise (h : StateInv s) (ha : txActive s = false) (hs : s.rx.state = .detectStart) :
    StateInv (candidateRise u s) := by
  obtain ⟨hi, hk, -, hf, -⟩ := (rxLegal_detect_iff hs).mp h.rxOk.legalOk
  have notIdle : s.rx.state ≠ .idle := by simp [hs]
  exact h.rxMoved rfl rfl (.refl _)
    (h.rxOk.pulse notIdle ((rxLegal_detect_iff (by exact hs)).mpr ⟨hi, hk, nofun, hf, nofun⟩)
      (h.rxOk.timed notIdle) h.rxOk.timerArmed h.rxOk.fallSeen)
    (fun hb => absurd (ha.symm.trans hb) Bool.false_ne_true) (.inl rfl)

/-- The EOM bit (R208, R218). -/
theorem StateInv.eomBit (h : StateInv s) (ha : txActive s = false) (hs : s.rx.state = .receiveBlock)
    (hk : ¬s.rx.k < 8) (b : Bit) : StateInv (eomBit b s) := by
  have busy : ∀ {p : Prop}, txActive s = true → p := fun hb => absurd (ha.symm.trans hb) Bool.false_ne_true
  by_cases hlong : s.rx.i = 14 ∧ b = 0
  · have notHold : s.rx.phase ≠ .hold := by
      obtain ⟨-, -, hp, -⟩ := (rxLegal_block_iff hs).mp h.rxOk.legalOk
      exact hp
    rw [eomBit_tooLong b s hlong notHold]
    exact h.rxMoved rfl rfl (.refl _) (rxInv_idle _ _ _) (fun _ => rfl) (.inr rfl)
  · cases hc : hookConcerned s.cfg (frameDest s.rx) with
    | false =>
      rw [eomBit_unconcerned b s hlong hc]
      exact h.rxMoved rfl rfl (.refl _) (h.rxOk.ackCell hs hk b hlong false nofun) busy (.inl rfl)
    | true =>
      rw [eomBit_concerned b s hlong hc]
      exact h.rxMoved rfl rfl (hookAnswered_grows _) (h.rxOk.ackCell hs hk b hlong _ fun _ => hc) busy (.inl rfl)

/-- The rising edge of a data bit or an EOM bit (R207, R208). -/
theorem StateInv.cellRise (h : StateInv s) (ha : txActive s = false) (hs : s.rx.state = .receiveBlock) :
    StateInv (cellRise u s) := by
  unfold Machine.cellRise
  split
  next b _ =>
    split
    next hk =>
      exact h.rxMoved rfl rfl (.refl _) (h.rxOk.dataBit hs hk b)
        (fun hb => absurd (ha.symm.trans hb) Bool.false_ne_true) (.inl rfl)
    next hk => exact h.eomBit ha hs hk b
  next => exact h.rxAbort
  next => exact h.rxAbort

/-- The end of an ACK cell (R215, R216). -/
theorem StateInv.rxBlockDone (h : StateInv s) (ha : txActive s = false) (hs : eomSeen s.rx = true) (a : Bit) :
    StateInv (rxBlockDone a s) := by
  by_cases heom : s.rx.eom = 1
  · have dropped : ∀ {t : State}, t.cfg = s.cfg → t.tx = s.tx → t.env = s.env → t.rx = Rx.atReset → StateInv t :=
      fun hcfg htx henv hrx =>
        h.rxMoved hcfg htx (henv ▸ .refl _) (hrx ▸ rxInv_idle _ _ _) (fun _ => congrArg Rx.state hrx)
          (.inr (congrArg Rx.timer hrx))
    unfold Machine.rxBlockDone
    dsimp only
    rw [if_pos heom]
    split
    · exact dropped rfl rfl rfl rfl
    · exact dropped (rxAbort_cfg _) (rxAbort_tx _) (rxAbort_env _) (rxAbort_rx _)
    · exact dropped (rxAbort_cfg _) (rxAbort_tx _) (rxAbort_env _) (rxAbort_rx _)
  · rw [rxBlockDone_more a s heom]
    exact h.rxMoved rfl rfl (.refl _) (h.rxOk.nextBlock hs heom a)
      (fun hb => absurd (ha.symm.trans hb) Bool.false_ne_true) (.inl rfl)

/-- The rising edge of an ACK cell the engine watches (R211). -/
theorem StateInv.watchedRise (h : StateInv s) (ha : txActive s = false) (hs : s.rx.state = .skipAck) :
    StateInv (watchedRise u s) := by
  unfold Machine.watchedRise
  split
  · exact h.rxBlockDone ha (eomSeen_iff.mpr (.inr hs)) _
  · exact h.rxAbort
  · exact h.rxAbort

/-- A rising edge that reaches the receiver (R253). -/
theorem StateInv.rxRise (h : StateInv s) (ha : txActive s = false) : StateInv (rxRise u s) := by
  unfold Machine.rxRise
  split
  next => exact h.emit _
  next hs _ => exact h.candidateRise ha hs
  next hs _ => exact h.cellRise ha hs
  next hs _ => exact h.watchedRise ha hs
  next hs _ => exact h.rxBlockDone ha (eomSeen_iff.mpr (.inl hs)) 0
  next => exact h.emit _
  next => exact h.emit _

/-- A timer of the receiver (R213, R217). -/
theorem StateInv.rxTimer (h : StateInv s) (ha : txActive s = false) : StateInv (rxTimer s) := by
  unfold Machine.rxTimer
  split
  next hh =>
    obtain ⟨hs, -⟩ := hh
    obtain ⟨-, -, hf, -⟩ := (rxLegal_driven_iff hs).mp h.rxOk.legalOk
    exact h.armRx (t := setRx _ (Machine.lineWrite .high s)) _ rfl rfl rfl
      (h.rxOk.drivenPulse hs .awaitRise hf h.rxOk.fallSeen) ha
  next => exact h.rxAbort

end

/-! ## The transmitter -/

/-- An attempt goes on with a new timer (R160 to R171). -/
theorem StateInv.later (h : StateInv s) (ha : txActive s = true) (d : Nat) (hcfg : t.cfg = s.cfg) (hrx : t.rx = s.rx)
    (henv : t.env = s.env) (l : LaterIn s.tx t.tx) : StateInv (armTx d t) := by
  refine (h.receiver.keep hcfg hrx (henv ▸ .refl _)).armTx d ?_ fun _ => hrx ▸ h.halfDuplex ha
  rw [hcfg, henv]
  exact h.txOk.later ha l

/-- A check of the line inside an attempt: it goes on, or arbitration is lost (R165). -/
theorem StateInv.releasedCheck (h : StateInv s) (ha : txActive s = true) {go : State → State}
    (hgo : ∀ v, StateInv v → v.tx = s.tx → StateInv (go v)) : StateInv (releasedCheck go s) := by
  unfold Machine.releasedCheck
  split
  · exact h.lineRead.arbLoss ha
  · exact hgo _ h.lineRead rfl

theorem StateInv.windowCheck (h : StateInv s) (ha : txActive s = true) {go : State → State}
    (hgo : ∀ v, StateInv v → v.tx = s.tx → StateInv (go v)) : StateInv (windowCheck go s) := by
  unfold Machine.windowCheck
  split
  · exact h.releasedCheck ha hgo
  · exact hgo s h rfl

/-- A new attempt begins beside an idle receiver (R159). -/
theorem StateInv.txStart_idle (h : StateInv s) (hs : s.tx.state = .waitFreeTime) (hi : s.rx.state = .idle) :
    StateInv (txStart s) := by
  have pulled : ∀ x, ReceiverInv (Machine.lineWrite .low (setTx x s)) := fun _ => h.receiver.keep rfl rfl (.refl _)
  unfold txStart
  rw [if_pos hi]
  exact (pulled _).armTx _ (h.txOk.attempt hs) fun _ => hi

/-- A new attempt begins, and drops a reception in progress (R159). -/
theorem StateInv.txStart (h : StateInv s) (hs : s.tx.state = .waitFreeTime) : StateInv (txStart s) := by
  by_cases hi : s.rx.state = .idle
  · exact h.txStart_idle hs hi
  · rw [txStart_aborts s hi]
    exact h.rxAbort.txStart_idle (by rw [rxAbort_tx, hs]) (by rw [rxAbort_rx]; rfl)

/-- A waiting transaction loses its timer (R156, R158). -/
theorem StateInv.dropTimer (h : StateInv s) (hs : s.tx.state = .waitFreeTime) :
    StateInv (setTx { s.tx with timer := none } s) :=
  ReceiverInv.inactive (h.receiver.keep rfl rfl (.refl _)) (h.txOk.unarmed hs) (active_of_waiting hs) nofun

/-- A waiting transaction gets a new timer (R157, R158). -/
theorem StateInv.armWaiting (h : StateInv s) (hs : s.tx.state = .waitFreeTime) (d : Nat) : StateInv (armTx d s) :=
  h.receiver.armTx d (h.txOk.rearmed (by simp [hs])) h.halfDuplex

/-- The free-time timer expires (R158). -/
theorem StateInv.waitTimer (h : StateInv s) (hs : s.tx.state = .waitFreeTime) : StateInv (waitTimer s) := by
  unfold Machine.waitTimer
  dsimp only
  split
  · exact h.lineRead.dropTimer hs
  · split
    · exact h.lineRead.nowRead.txStart hs
    · exact h.lineRead.nowRead.armWaiting hs _

/-- The sequencer registers of a start bit (R39, R161). -/
theorem StateInv.startBit (h : StateInv s) (hs : s.tx.state = .sendStartBit) :
    s.tx.i = 0 ∧ s.tx.k = 0 ∧ s.tx.acks = [] ∧ s.tx.frame ≠ none ∧ s.tx.handle ≠ none := by
  obtain ⟨hi, hk, hp, hf, hh⟩ := (txLegal_startBit_iff hs).mp h.txOk.legalOk
  have sampled : acksExpected s.tx = 0 := by obtain hp | hp := hp <;> simp [acksExpected, hp, hi]
  exact ⟨hi, hk, List.length_eq_zero_iff.mp (h.txOk.acksSoFar.trans sampled), hf, hh⟩

/-- The end of the start bit's low phase (R161). -/
theorem StateInv.startLowTimer (h : StateInv s) (hs : s.tx.state = .sendStartBit) : StateInv (startLowTimer s) := by
  have ha : txActive s = true := active_iff.mpr (.inl hs)
  obtain ⟨hi, hk, hacks, hf, hh⟩ := h.startBit hs
  refine (h.lineWrite .high).releasedCheck ha fun v hv htx => ?_
  have htx : v.tx = s.tx := htx
  refine hv.later (t := setTx _ v) (by unfold txActive; rwa [htx]) _ rfl rfl rfl ?_
  rw [htx]
  exact ⟨rfl, rfl, rfl, rfl, ha, (txLegal_startBit_iff (by exact hs)).mpr ⟨hi, hk, .inr rfl, hf, hh⟩,
    by simp [acksExpected, hacks, hi]⟩

/-- A bit cell begins, at the block and cell that `y` names (R160). -/
theorem StateInv.beginBit (h : StateInv s) (ha : txActive s = true) {y : Tx}
    (l : LaterIn s.tx { y with phase := .low }) : StateInv (beginBit (setTx y s)) :=
  h.later (t := Machine.lineWrite .low (setTx _ (setTx y s))) ha _ rfl rfl rfl l

/-- The end of the start bit (R162). -/
theorem StateInv.startHighTimer (h : StateInv s) (hs : s.tx.state = .sendStartBit) : StateInv (startHighTimer s) := by
  have ha : txActive s = true := active_iff.mpr (.inl hs)
  obtain ⟨-, -, hacks, hf, hh⟩ := h.startBit hs
  refine h.releasedCheck ha fun v hv htx => ?_
  refine hv.beginBit (by unfold txActive; rwa [htx]) ?_
  rw [htx]
  have blocks : 0 < blockCount s.tx := by
    obtain ⟨f, hf⟩ := Option.ne_none_iff_exists'.mp hf
    simp [blockCount, hf, frameBlockCount]
  exact ⟨rfl, rfl, rfl, rfl, rfl, (txLegal_block_iff rfl).mpr ⟨blocks, Nat.zero_le 8, .inl rfl, hf, hh⟩,
    by simp [acksExpected, hacks]⟩

/-- While a block is sent one ACK bit is noted per earlier block (R30). -/
theorem StateInv.blockAcks (h : StateInv s) (hs : s.tx.state = .sendBlock) : s.tx.acks.length = s.tx.i := by
  obtain ⟨-, -, hp, -⟩ := (txLegal_block_iff hs).mp h.txOk.legalOk
  have := h.txOk.acksSoFar
  obtain hp | hp := hp <;> simpa [acksExpected, hp] using this

/-- The end of a bit's low phase (R163). -/
theorem StateInv.bitLowTimer (h : StateInv s) (hs : s.tx.state = .sendBlock) : StateInv (bitLowTimer s) := by
  have ha : txActive s = true := active_iff.mpr (.inr (.inl hs))
  obtain ⟨hi, hk, -, hfh⟩ := (txLegal_block_iff hs).mp h.txOk.legalOk
  refine (h.lineWrite .high).windowCheck ha fun v hv htx => ?_
  have htx : v.tx = s.tx := htx
  refine hv.later (t := setTx _ v) (by unfold txActive; rwa [htx]) _ rfl rfl rfl ?_
  rw [htx]
  exact ⟨rfl, rfl, rfl, rfl, ha, (txLegal_block_iff (by exact hs)).mpr ⟨hi, hk, .inr rfl, hfh⟩, h.blockAcks hs⟩

/-- The end of a bit cell (R164). -/
theorem StateInv.bitHighTimer (h : StateInv s) (hs : s.tx.state = .sendBlock) : StateInv (bitHighTimer s) := by
  have ha : txActive s = true := active_iff.mpr (.inr (.inl hs))
  obtain ⟨hi, hk, -, hf, hh⟩ := (txLegal_block_iff hs).mp h.txOk.legalOk
  refine h.windowCheck ha fun v hv htx => ?_
  have hav : txActive v = true := by unfold txActive; rwa [htx]
  rw [htx]
  split
  next hmore =>
    refine hv.beginBit hav ?_
    rw [htx]
    exact ⟨rfl, rfl, rfl, rfl, ha, (txLegal_block_iff (by exact hs)).mpr ⟨hi, hmore, .inl rfl, hf, hh⟩,
      h.blockAcks hs⟩
  next hlast =>
    have hk8 : s.tx.k = 8 := by omega
    refine hv.later (t := Machine.lineWrite .low (setTx _ v)) hav _ rfl rfl rfl ?_
    show LaterIn v.tx { v.tx with state := .sampleAck, phase := .low }
    rw [htx]
    exact ⟨rfl, rfl, rfl, rfl, rfl, (txLegal_ack_iff rfl).mpr ⟨hi, hk8, nofun, hf, hh, nofun⟩, h.blockAcks hs⟩

/-- The end of the ACK cell's low phase (R168). -/
theorem StateInv.ackLowTimer (h : StateInv s) (hs : s.tx.state = .sampleAck) (hp : s.tx.phase = .low) :
    StateInv (ackLowTimer s) := by
  have ha : txActive s = true := active_iff.mpr (.inr (.inr hs))
  obtain ⟨hi, hk, -, hf, hh, -⟩ := (txLegal_ack_iff hs).mp h.txOk.legalOk
  have acks : s.tx.acks.length = s.tx.i := by simpa [acksExpected, hp] using h.txOk.acksSoFar
  exact h.later (t := setTx _ (Machine.lineWrite .high s)) ha _ rfl rfl rfl
    ⟨rfl, rfl, rfl, rfl, ha, (txLegal_ack_iff (by exact hs)).mpr ⟨hi, hk, nofun, hf, hh, nofun⟩, acks⟩

/-- The sample point (R169). -/
theorem StateInv.ackSampleTimer (h : StateInv s) (hs : s.tx.state = .sampleAck) (hp : s.tx.phase = .preSample) :
    StateInv (ackSampleTimer s) := by
  have ha : txActive s = true := active_iff.mpr (.inr (.inr hs))
  obtain ⟨hi, hk, -, hf, hh, -⟩ := (txLegal_ack_iff hs).mp h.txOk.legalOk
  have acks : s.tx.acks.length = s.tx.i := by simpa [acksExpected, hp] using h.txOk.acksSoFar
  have sampled : ∀ a : Bit, (s.tx.acks ++ [a]).length = s.tx.i + 1 := by simp [acks]
  exact h.lineRead.later (t := setTx _ (Machine.lineRead s)) ha _ rfl rfl rfl
    ⟨rfl, rfl, rfl, rfl, ha, (txLegal_ack_iff (by exact hs)).mpr ⟨hi, hk, nofun, hf, hh, fun _ => by simp⟩,
      sampled _⟩

/-- The verdict on a block (R171). -/
theorem StateInv.ackVerdict (h : StateInv s) (hs : s.tx.state = .sampleAck) (hp : s.tx.phase = .postSample)
    (f : Frame) (hframe : s.tx.frame = some f) (a : Bit) : StateInv (ackVerdict f a s) := by
  have ha : txActive s = true := active_iff.mpr (.inr (.inr hs))
  obtain ⟨hi, -, -, hf, hh, -⟩ := (txLegal_ack_iff hs).mp h.txOk.legalOk
  have blocks : blockCount s.tx = frameBlockCount f := by simp [blockCount, hframe]
  have acks : s.tx.acks.length = s.tx.i + 1 := by simpa [acksExpected, hp] using h.txOk.acksSoFar
  unfold Machine.ackVerdict
  split
  · exact h.attemptFailed ha _ _
  · split
    · exact h.receiver.txDone
    next hmore =>
      have more : s.tx.i + 1 < blockCount s.tx := by omega
      exact h.beginBit ha
        ⟨rfl, rfl, rfl, rfl, rfl, (txLegal_block_iff rfl).mpr ⟨more, Nat.zero_le 8, .inl rfl, hf, hh⟩, acks⟩

/-- The end of the ACK cell (R171). -/
theorem StateInv.ackEndTimer (h : StateInv s) (hs : s.tx.state = .sampleAck) (hp : s.tx.phase = .postSample) :
    StateInv (ackEndTimer s) := by
  unfold Machine.ackEndTimer
  split
  next f a hframe _ => exact h.ackVerdict hs hp f hframe a
  next => exact h

/-- A timer of the transmitter (R254, R179). -/
theorem StateInv.txTimer (h : StateInv s) : StateInv (txTimer s) := by
  unfold Machine.txTimer
  split
  next hs => exact h.waitTimer hs
  next hs _ => exact h.startLowTimer hs
  next hs _ => exact h.startHighTimer hs
  next hs _ => exact h.bitLowTimer hs
  next hs _ => exact h.bitHighTimer hs
  next hs hp => exact h.ackLowTimer hs hp
  next hs hp => exact h.ackSampleTimer hs hp
  next hs hp => exact h.ackEndTimer hs hp
  all_goals exact h

/-- A falling edge while the transmitter is active (R166). -/
theorem StateInv.txFall (h : StateInv s) (ha : txActive s = true) : StateInv (txFall s) := by
  unfold Machine.txFall
  split
  · exact h
  · split
    · exact h.arbLoss ha
    · exact h.emit _

/-- A falling edge takes the timer of a waiting transaction (R156). -/
theorem StateInv.dropWait (h : StateInv s) : StateInv (dropWait s) := by
  unfold Machine.dropWait
  split
  next hs => exact h.dropTimer hs
  next => exact h

/-- A rising edge gives a waiting transaction a new one (R157). -/
theorem StateInv.rearmWait (h : StateInv s) : StateInv (rearmWait s) := by
  unfold Machine.rearmWait
  split
  next hs => exact h.armWaiting hs _
  next => exact h

/-! ## The events -/

/-- A request is accepted or refused (R151). -/
theorem StateInv.onSend (h : StateInv s) (f : Frame) : StateInv (onSend f s) := by
  unfold Machine.onSend
  split
  · exact (h.emit _).emit _
  next hok =>
    obtain ⟨-, fits⟩ := not_or.mp hok
    obtain ⟨-, -, -, -, budget⟩ := (configWf_iff s.cfg).mp h.configOk
    have taken : ReceiverInv
        (Machine.emit (.reply (.accepted s.tx.seq)) (setTx (sendRegisters f s.bus.lastInit s.tx) s)) :=
      h.receiver.keep rfl rfl (.refl _)
    exact taken.enterWait
      { frame := nofun
        handle := nofun
        frameFits := by rintro g ⟨⟩; exact decide_eq_true (Nat.not_lt.mp fits)
        handleGiven := by rintro p ⟨⟩; exact Nat.lt_succ_self _
        budget := budget }

/-- A request is withdrawn or not (R152). -/
theorem StateInv.onCancel (h : StateInv s) (p : Nat) : StateInv (onCancel p s) := by
  unfold Machine.onCancel
  split
  · exact h.receiver.txToIdle.emit _
  · exact (h.emit _).emit _

/-- After a falling edge drops a wait the transmitter is as active as before. -/
theorem txActive_dropWait (s : State) : txActive (dropWait s) = txActive s := by
  unfold dropWait; split <;> rfl

theorem dropWait_env (s : State) : (dropWait s).env = s.env := by unfold dropWait; split <;> rfl

/-- A falling edge (R252). -/
theorem StateInv.onFall (h : StateInv s) {u : Nat} (hu : u ≤ s.env.lastEdge) : StateInv (onFall u s) := by
  unfold Machine.onFall
  split
  next ha => exact h.txFall ha
  next ha =>
    exact h.dropWait.rxFall ((txActive_dropWait s).trans (Bool.eq_false_iff.mpr ha)) (by rwa [dropWait_env])

/-- A rising edge (R253). -/
theorem StateInv.onRise (h : StateInv s) (u : Nat) : StateInv (onRise u s) := by
  unfold Machine.onRise
  split
  · exact h.setBus _
  next ha => exact (StateInv.rxRise (h.setBus _ : StateInv (riseNoted u s)) (Bool.eq_false_iff.mpr ha)).rearmWait

/-- A receiver that waits on a timer is not idle, and the transmitter is not active beside it (I1, I4). -/
theorem StateInv.inactive_of_rxTimer (h : StateInv s) {n : Nat} (hn : s.rx.timer = some n) : txActive s = false := by
  by_contra ha
  have idle := h.rxOk.idleClear (h.halfDuplex (Bool.not_eq_false _ ▸ ha))
  rw [idle] at hn
  cases hn

/-- A timer expires (R254). -/
theorem StateInv.onTimer (h : StateInv s) (n : Nat) : StateInv (onTimer n s) := by
  unfold Machine.onTimer
  split
  · exact h.txTimer
  · split
    next hn => exact h.rxTimer (h.inactive_of_rxTimer hn)
    next => exact h

/-- `RESET` under a well-formed configuration (R320). -/
theorem StateInv.onReset (h : StateInv s) (hc : configWf s.cfgIn = true) : StateInv (onReset s) where
  configOk := hc
  txOk := txInv_idle _ _ 0
  rxOk := rxInv_idle _ _ _
  halfDuplex := nofun
  timersApart := nofun
  clockSeen := (timeAnswered_grows s.env).lastEdge.trans_le (h.clockSeen.trans (timeAnswered_grows s.env).clock)

/-! ## The step -/

/-- Every operation keeps the invariants. -/
theorem StateInv.does (h : StateInv s) {i : Instr} (hd : Does i s t) : StateInv t := by
  cases hd with
  | fall ho => exact (h.edgeSeen ho).onFall le_rfl
  | rise ho => exact (h.edgeSeen ho).onRise _
  | timer => exact h.onTimer _
  | send => exact h.onSend _
  | cancel => exact h.onCancel _
  | reset hc => exact h.onReset hc
  | write => exact h.lineWrite _
  | aside _ ha => exact h.aside ha

/-- Settles O8: a step leaves the registers alone or runs an operation, and every operation keeps the invariants. -/
theorem stepKeepsInvariants : Obligations.StepKeepsInvariants := by
  intro s t h hstep
  obtain ha | ⟨r, rest, i, -, -, hexec⟩ := step_cases hstep
  · exact h.aside ha
  · have taken : StateInv { s with inbox := rest } := h.of_registers rfl rfl rfl (.refl _)
    exact taken.does (exec_does i hexec)

end Sys2Proof.Machine
end

section
/-! PROOFS. Every step keeps I2 of R37 (O9): the line is pulled low in the low phase of a cell sent or in an acknowledge held,
and nowhere else. Most transitions end with the line released; the others are in one of the two places. -/

namespace Sys2Proof.Machine

variable {s t : State}

/-- A released line keeps I2. -/
theorem driveInv_of_released (h : s.bus.drive = .high) : DriveInv s := fun hlow => by rw [h] at hlow; cases hlow

theorem drive_high_of_not_low (h : s.bus.drive ≠ .low) : s.bus.drive = .high := by
  cases hd : s.bus.drive
  · exact absurd hd h
  · rfl

/-! ## The receiver and the line -/

/-- I2 while the transmitter is not active: the line is pulled low in an acknowledge held only (R212, R213). -/
def HeldInv (s : State) : Prop := s.bus.drive = .low → s.rx.state = .driveAck ∧ s.rx.phase = .hold

theorem HeldInv.driveInv (h : HeldInv s) : DriveInv s := fun hlow => .inr (h hlow)

theorem DriveInv.held (h : DriveInv s) (ha : txActive s = false) : HeldInv s := fun hlow =>
  (h hlow).resolve_left fun ⟨hb, _⟩ => Bool.false_ne_true (ha.symm.trans hb)

theorem heldInv_of_released (h : s.bus.drive = .high) : HeldInv s := fun hlow => by rw [h] at hlow; cases hlow

/-- Outside the hold phase the receiver leaves the line released. -/
theorem HeldInv.released (h : HeldInv s) (hp : s.rx.phase ≠ .hold) : s.bus.drive = .high :=
  drive_high_of_not_low fun hlow => hp (h hlow).2

theorem HeldInv.released_of_state (h : HeldInv s) (hs : s.rx.state ≠ .driveAck) : s.bus.drive = .high :=
  drive_high_of_not_low fun hlow => hs (h hlow).1

/-- What touches neither the line nor the receiver keeps I2. -/
theorem HeldInv.keep (h : HeldInv s) (hbus : t.bus.drive = s.bus.drive) (hrx : t.rx = s.rx) : HeldInv t := by
  unfold HeldInv
  rw [hbus, hrx]
  exact h

theorem HeldInv.armTx (h : HeldInv s) (d : Nat) : HeldInv (armTx d s) := h.keep rfl rfl

theorem HeldInv.lineRead (h : HeldInv s) : HeldInv (lineRead s) := h.keep rfl rfl

theorem HeldInv.nowRead (h : HeldInv s) : HeldInv (nowRead s) := h.keep rfl rfl

theorem HeldInv.setTx (h : HeldInv s) (x : Tx) : HeldInv (setTx x s) := h.keep rfl rfl

/-- Dropping a reception never leaves the line held (R205). -/
theorem HeldInv.rxAbort (h : HeldInv s) : (rxAbort s).bus.drive = .high := by
  unfold Machine.rxAbort
  split
  · rfl
  next hn => exact drive_high_of_not_low fun hlow => hn (h hlow)

section
variable {u : Nat}

/-- An edge that is an error leaves the line released (R204, R205). -/
theorem HeldInv.violationReused (h : HeldInv s) : (raiseAndReuse .timingViolation u s).bus.drive = .high := h.rxAbort

theorem HeldInv.candidateFall (h : HeldInv s) (hp : s.rx.phase ≠ .hold) : (candidateFall u s).bus.drive = .high := by
  unfold Machine.candidateFall
  split
  · exact h.released hp
  · exact h.violationReused

theorem HeldInv.cellFall (h : HeldInv s) (hp : s.rx.phase ≠ .hold) : (cellFall u s).bus.drive = .high := by
  unfold Machine.cellFall
  split
  · exact h.released hp
  · exact h.violationReused

/-- The line is pulled for an acknowledge, and held (R212). -/
theorem HeldInv.driveFall (h : HeldInv s) (hs : s.rx.state = .driveAck) : HeldInv (driveFall u s) := by
  unfold Machine.driveFall
  split
  · exact fun _ => ⟨hs, rfl⟩
  · exact heldInv_of_released h.violationReused

/-- A falling edge that reaches the receiver (R252). -/
theorem HeldInv.rxFall (h : HeldInv s) : HeldInv (rxFall u s) := by
  unfold Machine.rxFall
  split
  next hs => exact heldInv_of_released (h.released_of_state (by simp [hs]))
  next hp => exact heldInv_of_released (h.candidateFall (by simp [hp]))
  next hp => exact heldInv_of_released (h.cellFall (by simp [hp]))
  next hp => exact heldInv_of_released (h.cellFall (by simp [hp]))
  next hs _ => exact h.driveFall hs
  next => exact h.keep rfl rfl
  next => exact h.keep rfl rfl

theorem eomBit_released (h : s.bus.drive = .high) (b : Bit) : (eomBit b s).bus.drive = .high := by
  unfold eomBit
  dsimp only
  split
  · exact (heldInv_of_released (s := setRx _ s) h).rxAbort
  · exact (congrArg Bus.drive (aside_ackDecided _ _ (setRx _ s)).bus).trans h

theorem cellRise_released (h : s.bus.drive = .high) : (cellRise u s).bus.drive = .high := by
  unfold cellRise
  split
  · split
    · exact h
    · exact eomBit_released h _
  · exact (heldInv_of_released h).rxAbort
  · exact (heldInv_of_released h).rxAbort

theorem rxBlockDone_released (h : s.bus.drive = .high) (a : Bit) : (rxBlockDone a s).bus.drive = .high := by
  have aborted : ∀ x, (Machine.rxAbort (setRx x s)).bus.drive = .high := fun x =>
    (heldInv_of_released (s := setRx x s) h).rxAbort
  unfold rxBlockDone
  dsimp only
  split
  · split
    · exact h
    · exact aborted _
    · exact aborted _
  · exact h

theorem watchedRise_released (h : s.bus.drive = .high) : (watchedRise u s).bus.drive = .high := by
  unfold watchedRise
  split
  · exact rxBlockDone_released h _
  · exact (heldInv_of_released h).rxAbort
  · exact (heldInv_of_released h).rxAbort

/-- A rising edge that reaches the receiver (R253). -/
theorem HeldInv.rxRise (h : HeldInv s) : HeldInv (rxRise u s) := by
  unfold Machine.rxRise
  split
  next => exact h.keep rfl rfl
  next hp => exact heldInv_of_released (h.released (by simp [hp]))
  next hp => exact heldInv_of_released (cellRise_released (h.released (by simp [hp])))
  next hp => exact heldInv_of_released (watchedRise_released (h.released (by simp [hp])))
  next hp => exact heldInv_of_released (rxBlockDone_released (h.released (by simp [hp])) 0)
  next => exact h.keep rfl rfl
  next => exact h.keep rfl rfl

/-- A timer of the receiver leaves the line released (R213, R205). -/
theorem HeldInv.rxTimer (h : HeldInv s) : (rxTimer s).bus.drive = .high := by
  unfold Machine.rxTimer
  split
  · rfl
  · exact h.rxAbort

end

/-! ## The transmitter and the line -/

theorem enterWait_bus (s : State) : (enterWait s).bus = s.bus := by
  unfold enterWait; dsimp only; split <;> rfl

theorem enterWait_rx (s : State) : (enterWait s).rx = s.rx := by
  unfold enterWait; dsimp only; split <;> rfl

theorem completeTx_bus (r : CompletionResult) (s : State) : (completeTx r s).bus = s.bus := by
  unfold completeTx; split <;> rfl

theorem retry_bus (why : FailReason) (s : State) : (retry why s).bus = s.bus := by
  unfold retry
  split
  · exact completeTx_bus _ _
  · exact enterWait_bus _

/-- A failed attempt leaves the line as it is (R171, R175). -/
theorem attemptFailed_drive (why : FailReason) (last : Initiator) (s : State) :
    (attemptFailed why last s).bus.drive = s.bus.drive := by
  unfold attemptFailed; rw [retry_bus]; rfl

/-- Losing arbitration releases the line (R175). -/
theorem arbLoss_drive (s : State) : (arbLoss s).bus.drive = .high := by
  unfold arbLoss
  split
  · exact attemptFailed_drive _ _ _
  next hn => exact (attemptFailed_drive _ _ _).trans (drive_high_of_not_low hn)

theorem txDone_drive (s : State) : (txDone s).bus.drive = s.bus.drive := by
  show (completeTx _ _).bus.drive = _
  rw [completeTx_bus]; rfl

/-- The low phase of a cell begins (R160). -/
theorem beginBit_driveInv (ha : txActive s = true) : DriveInv (beginBit s) := fun _ => .inl ⟨ha, rfl⟩

/-- A check of the line inside an attempt keeps I2 when going on does. -/
theorem releasedCheck_driveInv {go : State → State} (hgo : DriveInv (go (lineRead s))) :
    DriveInv (releasedCheck go s) := by
  unfold releasedCheck
  split
  · exact driveInv_of_released (arbLoss_drive _)
  · exact hgo

theorem windowCheck_driveInv {go : State → State} (hread : DriveInv (go (lineRead s))) (hgo : DriveInv (go s)) :
    DriveInv (windowCheck go s) := by
  unfold windowCheck
  split
  · exact releasedCheck_driveInv hread
  · exact hgo

/-- Outside the low phase of its cells an active transmitter leaves the line released, and the receiver beside it is idle
(I1, I2). -/
theorem DriveInv.released (hd : DriveInv s) (h : StateInv s) (ha : txActive s = true) (hp : s.tx.phase ≠ .low) :
    s.bus.drive = .high := by
  refine drive_high_of_not_low fun hlow => ?_
  obtain ⟨-, hlowPhase⟩ | ⟨hdriven, -⟩ := hd hlow
  · exact hp hlowPhase
  · rw [h.halfDuplex ha] at hdriven
    cases hdriven

/-- The free-time timer expires (R158, R159). -/
theorem DriveInv.waitTimer (hd : DriveInv s) (hs : s.tx.state = .waitFreeTime) : DriveInv (waitTimer s) := by
  have held : HeldInv s := hd.held (active_of_waiting hs)
  unfold Machine.waitTimer
  dsimp only
  split
  · exact (held.lineRead.setTx _).driveInv
  · split
    · exact fun _ => .inl ⟨rfl, rfl⟩
    · exact (held.lineRead.nowRead.armTx _).driveInv

/-- The end of a bit cell: the next cell begins (R164). -/
theorem bitHighTimer_driveInv (ha : txActive s = true) : DriveInv (bitHighTimer s) := by
  unfold bitHighTimer
  refine windowCheck_driveInv ?_ ?_
  · dsimp only
    split
    · exact beginBit_driveInv ha
    · exact fun _ => .inl ⟨rfl, rfl⟩
  · dsimp only
    split
    · exact beginBit_driveInv ha
    · exact fun _ => .inl ⟨rfl, rfl⟩

/-- The end of the ACK cell, with the line released (R171). -/
theorem ackEndTimer_driveInv (h : s.bus.drive = .high) : DriveInv (ackEndTimer s) := by
  unfold ackEndTimer
  split
  · unfold ackVerdict
    split
    · exact driveInv_of_released ((attemptFailed_drive _ _ _).trans h)
    · split
      · exact driveInv_of_released ((txDone_drive s).trans h)
      · exact beginBit_driveInv rfl
  · exact driveInv_of_released h

/-- A timer of the transmitter (R254, R179). -/
theorem DriveInv.txTimer (hd : DriveInv s) (h : StateInv s) : DriveInv (txTimer s) := by
  unfold Machine.txTimer
  split
  next hs => exact hd.waitTimer hs
  next => exact releasedCheck_driveInv (driveInv_of_released rfl)
  next => exact releasedCheck_driveInv (beginBit_driveInv rfl)
  next => exact windowCheck_driveInv (driveInv_of_released rfl) (driveInv_of_released rfl)
  next hs _ => exact bitHighTimer_driveInv (active_iff.mpr (.inr (.inl hs)))
  next => exact driveInv_of_released rfl
  next hs hp => exact driveInv_of_released (hd.released h (active_iff.mpr (.inr (.inr hs))) (by simp [hp]))
  next hs hp => exact ackEndTimer_driveInv (hd.released h (active_iff.mpr (.inr (.inr hs))) (by simp [hp]))
  all_goals exact hd

/-! ## The events -/

/-- A falling edge while the transmitter is active (R166). -/
theorem DriveInv.txFall (hd : DriveInv s) : DriveInv (txFall s) := by
  unfold Machine.txFall
  split
  · exact hd
  · split
    · exact driveInv_of_released (arbLoss_drive s)
    · exact hd

theorem DriveInv.onFall (hd : DriveInv s) (u : Nat) : DriveInv (onFall u s) := by
  unfold Machine.onFall
  split
  · exact hd.txFall
  next ha =>
    have dropped : HeldInv (dropWait s) := by
      unfold dropWait
      split
      · exact (hd.held (Bool.eq_false_iff.mpr ha)).setTx _
      · exact hd.held (Bool.eq_false_iff.mpr ha)
    exact dropped.rxFall.driveInv

theorem DriveInv.onRise (hd : DriveInv s) (u : Nat) : DriveInv (onRise u s) := by
  unfold Machine.onRise
  split
  · exact hd
  next ha =>
    have noted : HeldInv (riseNoted u s) := (hd.held (Bool.eq_false_iff.mpr ha)).keep rfl rfl
    have risen : HeldInv (rxRise u (riseNoted u s)) := noted.rxRise
    unfold rearmWait
    split
    · exact (risen.armTx _).driveInv
    · exact risen.driveInv

theorem DriveInv.onTimer (hd : DriveInv s) (h : StateInv s) (n : Nat) : DriveInv (onTimer n s) := by
  unfold Machine.onTimer
  split
  · exact hd.txTimer h
  · split
    next hn => exact driveInv_of_released (hd.held (h.inactive_of_rxTimer hn)).rxTimer
    next => exact hd

/-- A request is not accepted while the transmitter is active (R151). -/
theorem DriveInv.onSend (hd : DriveInv s) (f : Frame) : DriveInv (onSend f s) := by
  unfold Machine.onSend
  split
  · exact hd
  next hok =>
    obtain ⟨hidle, -⟩ := not_or.mp hok
    have held : HeldInv s := hd.held (by simp [txActive, active, not_not.mp hidle])
    exact HeldInv.driveInv (held.keep (by rw [enterWait_bus]; rfl) (by rw [enterWait_rx]; rfl))

theorem DriveInv.onCancel (hd : DriveInv s) (p : Nat) : DriveInv (onCancel p s) := by
  unfold Machine.onCancel
  split
  next hw =>
    obtain ⟨hs, -⟩ := hw
    exact HeldInv.driveInv ((hd.held (active_of_waiting hs)).keep rfl rfl)
  next => exact hd

/-! ## The step -/

/-- Every operation but `LINE_WRITE(Low)` presented by itself keeps I2 (log 18). -/
theorem DriveInv.does (hd : DriveInv s) (h : StateInv s) {i : Instr} (hi : i ≠ .lineWrite .low) (hdoes : Does i s t) :
    DriveInv t := by
  cases hdoes with
  | fall _ => exact DriveInv.onFall (s := edgeSeen _ s) hd _
  | rise _ => exact DriveInv.onRise (s := edgeSeen _ s) hd _
  | timer => exact hd.onTimer h _
  | send => exact hd.onSend _
  | cancel => exact hd.onCancel _
  | reset _ => exact driveInv_of_released rfl
  | @write l =>
    cases l
    · exact absurd rfl hi
    · exact driveInv_of_released rfl
  | aside _ ha =>
    unfold DriveInv txActive
    rw [ha.bus, ha.tx, ha.rx]
    exact hd

/-- Settles O9: a step leaves the registers alone or runs an operation, and only the one excepted breaks I2. -/
theorem stepKeepsDriveInvariant : Obligations.StepKeepsDriveInvariant := by
  intro s t h hd hpresented hstep
  obtain ha | ⟨r, rest, i, hin, hdec, hexec⟩ := step_cases hstep
  · exact hd.does h (i := .log) nofun (.aside nofun ha)
  · have taken : StateInv { s with inbox := rest } := h.of_registers rfl rfl rfl (.refl _)
    have notWrite : i ≠ .lineWrite .low := fun hi => hpresented r rest hin (hi ▸ hdec)
    exact DriveInv.does (s := { s with inbox := rest }) hd taken notWrite (exec_does i hexec)

end Sys2Proof.Machine
end

section
/-! PROOFS. What moves the handle counter and the idle time (O13): every transition but two keeps both. -/

namespace Sys2Proof.Machine

variable {s t v : State}

/-! ## What every transition but the two excepted keeps -/

/-- Neither the handle counter nor the idle time is moved (R151, R253). -/
structure KeepsCounters (s t : State) : Prop where
  seq : t.tx.seq = s.tx.seq
  idleSince : t.bus.idleSince = s.bus.idleSince

theorem KeepsCounters.refl (s : State) : KeepsCounters s s := ⟨rfl, rfl⟩

theorem KeepsCounters.trans (h : KeepsCounters s t) (h' : KeepsCounters t v) : KeepsCounters s v :=
  ⟨h'.seq.trans h.seq, h'.idleSince.trans h.idleSince⟩

theorem Aside.keepsCounters (h : Aside s t) : KeepsCounters s t := ⟨congrArg Tx.seq h.tx, congrArg Bus.idleSince h.bus⟩

/-! ### Leaving a machine, and errors -/

theorem rxAbort_keepsCounters (s : State) : KeepsCounters s (rxAbort s) := by
  unfold rxAbort; split <;> exact ⟨rfl, rfl⟩

theorem completeTx_keepsCounters (r : CompletionResult) (s : State) : KeepsCounters s (completeTx r s) := by
  unfold completeTx; split <;> exact ⟨rfl, rfl⟩

/-- `TxToIdle()` keeps the handle counter (R176). -/
theorem txToIdle_keepsCounters (s : State) : KeepsCounters s (txToIdle s) := ⟨rfl, rfl⟩

theorem txDone_keepsCounters (s : State) : KeepsCounters s (txDone s) :=
  (⟨rfl, rfl⟩ : KeepsCounters s (setBus { s.bus with lastInit := .self } s)).trans
    ((completeTx_keepsCounters _ _).trans (txToIdle_keepsCounters _))

theorem enterWait_keepsCounters (s : State) : KeepsCounters s (enterWait s) := by
  unfold enterWait; dsimp only; split <;> exact ⟨rfl, rfl⟩

theorem retry_keepsCounters (why : FailReason) (s : State) : KeepsCounters s (retry why s) := by
  have cleared : ∀ c, KeepsCounters s (setTx { s.tx with timer := none, ftClass := c } s) := fun _ => ⟨rfl, rfl⟩
  unfold retry
  split
  · exact (cleared _).trans ((completeTx_keepsCounters _ _).trans (txToIdle_keepsCounters _))
  · exact (cleared _).trans (enterWait_keepsCounters _)

theorem attemptFailed_keepsCounters (why : FailReason) (last : Initiator) (s : State) :
    KeepsCounters s (attemptFailed why last s) :=
  (⟨rfl, rfl⟩ : KeepsCounters s (setBus { s.bus with lastInit := last } (setTx { s.tx with err := some why } s))).trans
    (retry_keepsCounters _ _)

theorem arbLoss_keepsCounters (s : State) : KeepsCounters s (arbLoss s) := by
  unfold arbLoss
  split
  · exact (⟨rfl, rfl⟩ : KeepsCounters s (lineWrite .high s)).trans (attemptFailed_keepsCounters _ _ _)
  · exact attemptFailed_keepsCounters _ _ _

/-- Taking an error, whichever it is (R16, R287). -/
theorem raise_keepsCounters (e : ErrorKind) (s : State) : KeepsCounters s (raise e s) := by
  cases e with
  | timingViolation => exact rxAbort_keepsCounters s
  | arbitration => exact arbLoss_keepsCounters s
  | noAcknowledge => exact attemptFailed_keepsCounters _ _ s
  | truncated => exact rxAbort_keepsCounters s
  | invalidEom => exact rxAbort_keepsCounters s
  | invalidState => exact ⟨rfl, rfl⟩

/-! ### The receiver -/

section
variable (u : Nat) (s : State)

theorem raiseAndReuse_keepsCounters (e : ErrorKind) : KeepsCounters s (raiseAndReuse e u s) :=
  (raise_keepsCounters e s).trans ⟨rfl, rfl⟩

theorem candidateFall_keepsCounters : KeepsCounters s (candidateFall u s) := by
  unfold candidateFall
  split
  · exact ⟨rfl, rfl⟩
  · exact raiseAndReuse_keepsCounters u s _

theorem cellFall_keepsCounters : KeepsCounters s (cellFall u s) := by
  unfold cellFall
  split
  · exact ⟨rfl, rfl⟩
  · exact raiseAndReuse_keepsCounters u s _

theorem driveFall_keepsCounters : KeepsCounters s (driveFall u s) := by
  unfold driveFall
  split
  · exact ⟨rfl, rfl⟩
  · exact raiseAndReuse_keepsCounters u s _

theorem rxFall_keepsCounters : KeepsCounters s (rxFall u s) := by
  unfold rxFall
  split
  · exact ⟨rfl, rfl⟩
  · exact candidateFall_keepsCounters u s
  · exact cellFall_keepsCounters u s
  · exact cellFall_keepsCounters u s
  · exact driveFall_keepsCounters u s
  · exact ⟨rfl, rfl⟩
  · exact ⟨rfl, rfl⟩

theorem eomBit_keepsCounters (b : Bit) : KeepsCounters s (eomBit b s) := by
  have noted : KeepsCounters s (setRx { s.rx with eom := b, dest := some (frameDest s.rx) } s) := ⟨rfl, rfl⟩
  unfold eomBit
  dsimp only
  split
  · exact noted.trans (raise_keepsCounters _ _)
  · exact (noted.trans (aside_ackDecided _ _ _).keepsCounters).trans ⟨rfl, rfl⟩

theorem cellRise_keepsCounters : KeepsCounters s (cellRise u s) := by
  unfold cellRise
  split
  · split
    · exact ⟨rfl, rfl⟩
    · exact eomBit_keepsCounters s _
  · exact raise_keepsCounters _ s
  · exact raise_keepsCounters _ s

theorem rxBlockDone_keepsCounters (a : Bit) : KeepsCounters s (rxBlockDone a s) := by
  have noted : KeepsCounters s (setRx { s.rx with blocks := s.rx.blocks ++ [completedBlock a s.rx] } s) := ⟨rfl, rfl⟩
  unfold rxBlockDone
  dsimp only
  split
  · split
    · exact ⟨rfl, rfl⟩
    · exact noted.trans (raise_keepsCounters _ _)
    · exact noted.trans (raise_keepsCounters _ _)
  · exact ⟨rfl, rfl⟩

theorem watchedRise_keepsCounters : KeepsCounters s (watchedRise u s) := by
  unfold watchedRise
  split
  · exact rxBlockDone_keepsCounters s _
  · exact raise_keepsCounters _ s
  · exact raise_keepsCounters _ s

theorem rxRise_keepsCounters : KeepsCounters s (rxRise u s) := by
  unfold rxRise
  split
  · exact ⟨rfl, rfl⟩
  · exact ⟨rfl, rfl⟩
  · exact cellRise_keepsCounters u s
  · exact watchedRise_keepsCounters u s
  · exact rxBlockDone_keepsCounters s 0
  · exact ⟨rfl, rfl⟩
  · exact ⟨rfl, rfl⟩

theorem rxTimer_keepsCounters : KeepsCounters s (rxTimer s) := by
  unfold rxTimer
  split
  · exact ⟨rfl, rfl⟩
  · exact raise_keepsCounters _ s

end

/-! ### The transmitter -/

theorem armTx_keepsCounters (d : Nat) (s : State) : KeepsCounters s (armTx d s) := ⟨rfl, rfl⟩

theorem releasedCheck_keepsCounters {go : State → State} (hgo : ∀ v, KeepsCounters v (go v)) (s : State) :
    KeepsCounters s (releasedCheck go s) := by
  have read : KeepsCounters s (lineRead s) := ⟨rfl, rfl⟩
  unfold releasedCheck
  split
  · exact read.trans (raise_keepsCounters _ _)
  · exact read.trans (hgo _)

theorem windowCheck_keepsCounters {go : State → State} (hgo : ∀ v, KeepsCounters v (go v)) (s : State) :
    KeepsCounters s (windowCheck go s) := by
  unfold windowCheck
  split
  · exact releasedCheck_keepsCounters hgo s
  · exact hgo s

theorem txStart_keepsCounters (s : State) : KeepsCounters s (txStart s) := by
  have receiverIdle : KeepsCounters s (if s.rx.state = .idle then s else rxAbort s) := by
    split
    · exact .refl s
    · exact rxAbort_keepsCounters s
  exact receiverIdle.trans ⟨rfl, rfl⟩

theorem waitTimer_keepsCounters (s : State) : KeepsCounters s (waitTimer s) := by
  have shown : KeepsCounters s (nowRead (lineRead s)) := ⟨rfl, rfl⟩
  unfold waitTimer
  dsimp only
  split
  · exact ⟨rfl, rfl⟩
  · split
    · exact shown.trans (txStart_keepsCounters _)
    · exact shown.trans (armTx_keepsCounters _ _)

theorem startLowTimer_keepsCounters (s : State) : KeepsCounters s (startLowTimer s) := by
  have released : KeepsCounters s (lineWrite .high s) := ⟨rfl, rfl⟩
  refine released.trans (releasedCheck_keepsCounters (fun v => ?_) _)
  exact ⟨rfl, rfl⟩

theorem startHighTimer_keepsCounters (s : State) : KeepsCounters s (startHighTimer s) := by
  refine releasedCheck_keepsCounters (fun v => ?_) s
  exact ⟨rfl, rfl⟩

theorem bitLowTimer_keepsCounters (s : State) : KeepsCounters s (bitLowTimer s) := by
  have released : KeepsCounters s (lineWrite .high s) := ⟨rfl, rfl⟩
  refine released.trans (windowCheck_keepsCounters (fun v => ?_) _)
  exact ⟨rfl, rfl⟩

theorem bitHighTimer_keepsCounters (s : State) : KeepsCounters s (bitHighTimer s) := by
  refine windowCheck_keepsCounters (fun v => ?_) s
  split
  · exact ⟨rfl, rfl⟩
  · exact ⟨rfl, rfl⟩

theorem ackVerdict_keepsCounters (f : Frame) (a : Bit) (s : State) : KeepsCounters s (ackVerdict f a s) := by
  unfold ackVerdict
  split
  · exact raise_keepsCounters _ s
  · split
    · exact txDone_keepsCounters s
    · exact ⟨rfl, rfl⟩

theorem ackEndTimer_keepsCounters (s : State) : KeepsCounters s (ackEndTimer s) := by
  unfold ackEndTimer
  split
  · exact ackVerdict_keepsCounters _ _ s
  · exact .refl s

theorem txTimer_keepsCounters (s : State) : KeepsCounters s (txTimer s) := by
  unfold txTimer
  split
  · exact waitTimer_keepsCounters s
  · exact startLowTimer_keepsCounters s
  · exact startHighTimer_keepsCounters s
  · exact bitLowTimer_keepsCounters s
  · exact bitHighTimer_keepsCounters s
  · exact ⟨rfl, rfl⟩
  · exact ⟨rfl, rfl⟩
  · exact ackEndTimer_keepsCounters s
  all_goals exact .refl s

theorem txFall_keepsCounters (s : State) : KeepsCounters s (txFall s) := by
  unfold txFall
  split
  · exact .refl s
  · split
    · exact raise_keepsCounters _ s
    · exact raise_keepsCounters _ s

theorem dropWait_keepsCounters (s : State) : KeepsCounters s (dropWait s) := by
  unfold dropWait; split <;> exact ⟨rfl, rfl⟩

theorem rearmWait_keepsCounters (s : State) : KeepsCounters s (rearmWait s) := by
  unfold rearmWait; split <;> exact ⟨rfl, rfl⟩

/-! ### The events -/

theorem onFall_keepsCounters (u : Nat) (s : State) : KeepsCounters s (onFall u s) := by
  unfold onFall
  split
  · exact txFall_keepsCounters s
  · exact (dropWait_keepsCounters s).trans (rxFall_keepsCounters u _)

/-- A rising edge notes its timestamp first; nothing after that moves it (R253). -/
theorem onRise_keepsCounters (u : Nat) (s : State) : KeepsCounters (riseNoted u s) (onRise u s) := by
  unfold onRise
  split
  · exact .refl _
  · exact (rxRise_keepsCounters u _).trans (rearmWait_keepsCounters _)

theorem onTimer_keepsCounters (n : Nat) (s : State) : KeepsCounters s (onTimer n s) := by
  unfold onTimer
  split
  · exact txTimer_keepsCounters s
  · split
    · exact rxTimer_keepsCounters s
    · exact .refl s

theorem onCancel_keepsCounters (p : Nat) (s : State) : KeepsCounters s (onCancel p s) := by
  unfold onCancel; split <;> exact ⟨rfl, rfl⟩

/-- The request takes its handle from the counter, and the reply names it (R151). -/
structure RequestTaken (s t : State) : Prop where
  seq : t.tx.seq = s.tx.seq + 1
  idleSince : t.bus.idleSince = s.bus.idleSince
  reply : .reply (.accepted s.tx.seq) ∈ t.effects.drop s.effects.length

/-- `A_SEND` is refused and moves neither counter, or is accepted (R151). -/
theorem onSend_counters (f : Frame) (s : State) : KeepsCounters s (onSend f s) ∨ RequestTaken s (onSend f s) := by
  unfold onSend
  split
  · exact .inl ⟨rfl, rfl⟩
  · obtain ⟨hseq, hidle⟩ :=
      enterWait_keepsCounters (emit (.reply (.accepted s.tx.seq)) (setTx (sendRegisters f s.bus.lastInit s.tx) s))
    obtain ⟨later, heffects⟩ :=
      (Continues.refl (emit (.reply (.accepted s.tx.seq))
        (setTx (sendRegisters f s.bus.lastInit s.tx) s))).enterWait.effects
    refine .inr ⟨hseq, hidle, ?_⟩
    rw [← heffects]
    simp

/-- What an operation but `RESET` does to the two counters. -/
theorem Does.counters {i : Instr} (hd : Does i s t) (hi : i ≠ .reset) :
    (KeepsCounters s t ∧ ∀ u, i ≠ .eRise u) ∨ (∃ u, i = .eRise u ∧ KeepsCounters (riseNoted u s) t) ∨
      ∃ f, i = .aSend f ∧ RequestTaken s t := by
  cases hd with
  | fall _ =>
    obtain ⟨hseq, hidle⟩ := onFall_keepsCounters _ (edgeSeen _ s)
    exact .inl ⟨⟨hseq, hidle⟩, nofun⟩
  | rise _ =>
    obtain ⟨hseq, hidle⟩ := onRise_keepsCounters _ (edgeSeen _ s)
    exact .inr (.inl ⟨_, rfl, hseq, hidle⟩)
  | timer => exact .inl ⟨onTimer_keepsCounters _ s, nofun⟩
  | send =>
    obtain h | h := onSend_counters _ s
    · exact .inl ⟨h, nofun⟩
    · exact .inr (.inr ⟨_, rfl, h⟩)
  | cancel => exact .inl ⟨onCancel_keepsCounters _ s, nofun⟩
  | reset _ => exact absurd rfl hi
  | write => exact .inl ⟨⟨rfl, rfl⟩, nofun⟩
  | aside hrise h => exact .inl ⟨h.keepsCounters, hrise⟩

/-- Settles O13: the operation keeps both counters, is a rising edge, or is an accepted request. -/
theorem handleCounterAndIdleSince : Obligations.HandleCounterAndIdleSince := by
  intro i s t hi hexec
  obtain ⟨h, hrise⟩ | ⟨u, rfl, h⟩ | ⟨f, rfl, h⟩ := (exec_does i hexec).counters hi
  · exact ⟨.inl h.seq, fun u hu => absurd hu (hrise u), fun _ => h.idleSince⟩
  · exact ⟨.inl h.seq, by rintro _ ⟨⟩; exact h.idleSince, fun hrise => absurd rfl (hrise u)⟩
  · exact ⟨.inr ⟨f, rfl, h.seq, h.reply⟩, nofun, fun _ => h.idleSince⟩

end Sys2Proof.Machine
end

section
/-! PROOFS. The reset state and `RESET` (O7, O59), and the events that are refused (O17). -/

namespace Sys2Proof.Machine

/-! ## Reset -/

/-- Settles O7: the registers are those of R38, and both register blocks satisfy their invariants at rest. -/
theorem resetState : Obligations.ResetState := by
  have inv : StateInv State.reset :=
    { configOk := by decide
      txOk := txInv_idle _ _ 0
      rxOk := rxInv_idle _ _ _
      halfDuplex := nofun
      timersApart := nofun
      clockSeen := le_rfl }
  exact ⟨inv, driveInv_of_released rfl, rfl, rfl, rfl, rfl⟩

/-- What `RESET` does (R320, R321, R322). -/
theorem onReset_eq (s : State) :
    onReset s =
      { s with
        cfg := s.cfgIn, tx := Tx.atReset, rx := Rx.atReset, bus := Bus.atReset (timeAnswer s.env),
        env := timeAnswered (timeAnswer s.env) s.env,
        effects := s.effects ++ [.lineWrite .high, .now (timeAnswer s.env)] } := by
  simp [onReset, nowRead_eq, lineWrite_eq, setBus]

/-- `RESET` is refused for an ill-formed configuration only (R8, R320). -/
theorem execReset_eq (s : State) (h : configWf s.cfgIn = true) : execReset s = .next (onReset s) := by
  unfold execReset; rw [if_pos h]

/-- Settles O59. -/
theorem resetFromAnyState : Obligations.ResetFromAnyState := by
  intro s h
  show execReset s = _
  rw [execReset_eq s h, onReset_eq]
  rfl

/-! ## Refused events -/

/-- An event in a combination that is not legal (R39). -/
theorem admitted_unreachable (s : State) (k : Host.Outcome State Fault Refusal) (hc : configWf s.cfg = true)
    (hl : legal s = false) : admitted s k = .refused .unreachableCombination := by
  unfold admitted; rw [configured_eq s _ hc, hl]; rfl

/-- An edge before the latest one delivered is out of order (R303). -/
theorem edgeInOrder_early (s : State) {u : Nat} (h : u < s.env.lastEdge) : edgeInOrder u s = false :=
  decide_eq_false fun ⟨hle, _⟩ => absurd hle (Nat.not_le.mpr h)

/-- An edge event out of order (R303). -/
theorem edge_refused (s : State) {u : Nat} (hr : Ready s) (h : u < s.env.lastEdge)
    (k : Host.Outcome State Fault Refusal) :
    admitted s (if edgeInOrder u s then k else .refused .timestampDecreased) = .refused .timestampDecreased := by
  obtain ⟨hc, hl⟩ := hr
  rw [admitted_eq s _ hc hl, edgeInOrder_early s h]
  rfl

/-- Settles O17: every event but `RESET` is admitted first, and an edge's timestamp is compared before anything else. -/
theorem unreachableAndDisorderRefused : Obligations.UnreachableAndDisorderRefused := by
  refine ⟨fun s hc hl => ?_, fun s u hr h => ⟨edge_refused s hr h _, edge_refused s hr h _⟩⟩
  have refused := fun k => admitted_unreachable s k hc hl
  exact ⟨fun _ => refused _, fun _ => refused _, fun _ => refused _, fun _ => refused _, fun _ => refused _⟩

end Sys2Proof.Machine
end

section
/-! PROOFS. The access primitives and effects called by themselves (O30 to O33), the fields of a block word and of a header
byte (O19), and the cells of a block shifted in again (O29). -/

namespace Sys2Proof.Machine

/-! ## The access primitives and effects -/

/-- Settles O30: both are the primitives' own equations, and the level is the wired AND (R62). -/
theorem linePrimitives : Obligations.LinePrimitives := by
  refine ⟨fun l s => ?_, fun s => ⟨?_, lineLevel_high_iff s⟩⟩
  · show execLineWrite l s = _
    rw [execLineWrite, lineWrite_eq]
  · show execLineRead s = _
    rw [execLineRead, lineRead_eq, setResult]

/-- A register that holds only handles already armed does not hold the next one (R301). -/
theorem ne_nextHandle {timer : Option Nat} {armed : Nat} (h : ∀ n ∈ timer, n ≤ armed) : timer ≠ some (armed + 1) :=
  fun heq => absurd (h _ heq) (Nat.not_succ_le_self armed)

/-- Settles O31: the handle is fresh because both machines wait on armed timers only, and the answer of `NOW` is held at the
clock, which no delivered edge is ahead of. -/
theorem timerAndClock : Obligations.TimerAndClock := by
  intro s hs
  have hclock : s.env.clock ≤ timeAnswer s.env := clock_le_timeAnswer s.env
  refine ⟨fun d => ?_, ne_nextHandle hs.txOk.timerArmed, ne_nextHandle hs.rxOk.timerArmed, ?_, hclock,
    hs.clockSeen.trans hclock, timeAnswered_clock _ _⟩
  · show execTimerArm d s = _
    rw [execTimerArm, timerArm_eq, setResult, nextHandle]
  · show execNow s = _
    rw [execNow, nowRead_eq, setResult]

/-- `ACK_DECISION` for another device's frame is false, and the hook is not asked (R209). -/
theorem execAckDecision_unconcerned (dest : LogicalAddress) (i : Nat) (s : State) (hc : configWf s.cfg = true)
    (h : hookConcerned s.cfg dest = false) :
    execAckDecision dest i s = .next { s with result := .bool false } := by
  rw [execAckDecision, configured_eq s _ hc, ackDecision, ackDecided, h]
  rfl

/-- `ACK_DECISION` for a broadcast or this device's address is the hook's answer (R209). -/
theorem execAckDecision_concerned (dest : LogicalAddress) (i : Nat) (s : State) (hc : configWf s.cfg = true)
    (h : hookConcerned s.cfg dest = true) : execAckDecision dest i s = execShouldAck dest i s := by
  rw [execAckDecision, configured_eq s _ hc, ackDecision, ackDecided, h]
  rfl

/-- `SHOULD_ACK` (R65). -/
theorem execShouldAck_eq (dest : LogicalAddress) (i : Nat) (s : State) :
    execShouldAck dest i s =
      .next { s with
        env := hookAnswered s.env, effects := s.effects ++ [.shouldAck dest i (hookAnswer dest i s.env)],
        result := .bool (hookAnswer dest i s.env) } := by
  rw [execShouldAck, shouldAck_eq, setResult]

/-- Settles O32, by whether the destination concerns the hook. -/
theorem acknowledgeHook : Obligations.AcknowledgeHook := by
  refine fun dest i s => ⟨execShouldAck_eq dest i s, fun hc => ⟨fun ⟨hbroadcast, hown⟩ => ?_, fun hmine => ?_⟩⟩
  · have hother : hookConcerned s.cfg dest = false :=
      Bool.eq_false_iff.mpr fun h => ((hookConcerned_iff _ _).mp h).elim hbroadcast hown
    exact execAckDecision_unconcerned dest i s hc hother
  · have hconcerned : hookConcerned s.cfg dest = true := (hookConcerned_iff _ _).mpr hmine
    exact (execAckDecision_concerned dest i s hc hconcerned).trans (execShouldAck_eq dest i s)

/-- Settles O33: each of the four operations is `emit` of its effect (R66). -/
theorem effectsAreEmitted : Obligations.EffectsAreEmitted := by
  refine fun s => ⟨fun f => ?_, fun p r => ?_, fun r => ?_, ?_⟩
  · show execDeliver f s = _
    rw [execDeliver, emit]
  · show execComplete p r s = _
    rw [execComplete, emit]
  · show execReply r s = _
    rw [execReply, emit]
  · show execLog s = _
    rw [execLog, emit]

/-! ## The fields of a block word and of a header byte -/

@[simp] theorem headerSource_append (src dst : LogicalAddress) : headerSource (src ++ dst) = src :=
  BitVec.extractLsb'_append_eq_left

@[simp] theorem headerDestination_append (src dst : LogicalAddress) : headerDestination (src ++ dst) = dst :=
  BitVec.extractLsb'_append_eq_right

/-- Unpacking a packed block gives its fields (R135). -/
@[simp] theorem blockUnpack_blockPack (d : Byte) (e a : Bit) :
    blockUnpack (blockPack d e a) = { data := d, eom := e, ack := some a } := by
  have hdata : (d ++ e ++ a).extractLsb' 2 8 = d := by
    rw [BitVec.extractLsb'_append_eq_of_le (by decide), BitVec.extractLsb'_append_eq_left]
  have heom : (d ++ e ++ a).extractLsb' 1 1 = e := by
    rw [BitVec.extractLsb'_append_eq_of_le (by decide), BitVec.extractLsb'_append_eq_right]
  have hack : (d ++ e ++ a).extractLsb' 0 1 = a := BitVec.extractLsb'_append_eq_right
  rw [blockPack, blockUnpack, hdata, heom, hack]

/-- Packing the fields of a word gives the word (R135). -/
theorem blockPack_fields (w : BitVec 10) :
    blockPack (w.extractLsb' 2 8) (w.extractLsb' 1 1) (w.extractLsb' 0 1) = w := by
  have hupper : w.extractLsb' 2 8 ++ w.extractLsb' 1 1 = w.extractLsb' 1 9 :=
    BitVec.extractLsb'_append_extractLsb'_eq_extractLsb' rfl
  rw [blockPack, hupper]
  exact BitVec.extractLsb'_append_extractLsb'

/-- The wire order of a packed block: the data bits from bit 7 down, then EOM, then ACK (R69, R135). -/
theorem getLsbD_blockPack (d : Byte) (e a : Bit) {m : Nat} (hm : m < 10) :
    (blockPack d e a).getLsbD (9 - m) =
      if m < 8 then d.getLsbD (7 - m) else if m = 8 then e.getLsbD 0 else a.getLsbD 0 := by
  rw [blockPack, BitVec.getLsbD_append, BitVec.getLsbD_append]
  obtain hdata | rfl | rfl : m < 8 ∨ m = 8 ∨ m = 9 := by omega
  · rw [if_neg (show ¬9 - m < 1 by omega), if_neg (show ¬9 - m - 1 < 1 by omega), if_pos hdata]
    congr 1
    omega
  · rfl
  · rfl

/-- Settles O19: `BLOCK` and `HEADER` hand back the unpacked fields. -/
theorem fieldsOfBlockAndHeader : Obligations.FieldsOfBlockAndHeader := by
  refine ⟨fun d e a s => ?_, fun src dst s => ?_, blockUnpack_blockPack, fun w => ⟨_, _, _, rfl, blockPack_fields w⟩,
    fun d e a m => getLsbD_blockPack d e a⟩
  · show execBlock (blockPack d e a) s = _
    rw [execBlock, blockUnpack_blockPack, setResult]
  · show execHeader (src ++ dst) s = _
    rw [execHeader, headerSource_append, headerDestination_append, setResult]

/-! ## The cells of a block shifted in -/

/-- The new bit enters at the least significant end, and the others move up by one (R89, R207). -/
theorem getLsbD_shiftIn (shift : Byte) (b : Bit) {j : Nat} (hj : j < 8) :
    (shiftIn shift b).getLsbD j = if j = 0 then b.getLsbD 0 else shift.getLsbD (j - 1) := by
  rw [shiftIn, BitVec.getLsbD_append]
  rcases j with _ | j
  · rfl
  · have hj7 : j < 7 := by omega
    simp [hj7]

/-- The bit of a data cell is the byte's, most significant first (R136). -/
theorem getLsbD_cellOf (f : Frame) (i : Nat) {k : Nat} (hk : k < 8) :
    (cellOf f i k).getLsbD 0 = (byteOf f i).getLsbD (7 - k) := by
  simp [cellOf, hk]

/-- With `n` cells shifted in, the low `n` bits are the high `n` bits of the byte. -/
theorem getLsbD_shiftedCells (f : Frame) (i : Nat) (init : Byte) {n j : Nat} (hn : n ≤ 8) (hj : j < n) :
    ((List.range n).foldl (fun shift k => shiftIn shift (cellOf f i k)) init).getLsbD j =
      (byteOf f i).getLsbD (8 - n + j) := by
  induction n generalizing j with
  | zero => omega
  | succ n ih =>
    rw [List.range_succ, List.foldl_concat, getLsbD_shiftIn _ _ (by omega)]
    split
    next h0 =>
      rw [getLsbD_cellOf f i (by omega)]
      congr 1
      omega
    next h0 =>
      rw [ih (by omega) (by omega)]
      congr 1
      omega

/-- Settles O29: after eight cells every bit of the shift register is the byte's. -/
theorem cellsReassembleTheByte : Obligations.CellsReassembleTheByte := by
  intro f i init _
  refine BitVec.eq_of_getLsbD_eq fun j hj => ?_
  rw [getLsbD_shiftedCells f i init le_rfl hj, Nat.sub_self, Nat.zero_add]

end Sys2Proof.Machine
end

section
/-! PROOFS. What the decoder reads from what the encoder writes: the bytes and nibbles of an event operand, the numbers of
a call by name, and the operation of each event tag. -/

namespace Sys2Proof.Machine

/-! ## The bytes and nibbles of an event operand are read back -/

/-- Enough fuel writes every byte of the number. -/
theorem natOfBytes_bytesOfNatFuel {fuel n : Nat} (h : n ≤ fuel) : natOfBytes (bytesOfNatFuel fuel n) = n := by
  induction fuel generalizing n with
  | zero => exact (Nat.le_zero.mp h).symm
  | succ fuel ih =>
    rw [bytesOfNatFuel]
    split
    next h0 => exact h0.symm
    next h0 =>
      have hquot : n / 256 ≤ fuel := by omega
      rw [natOfBytes, ih hquot, BitVec.toNat_ofNat]
      exact Nat.mod_add_div n 256

@[simp] theorem natOfBytes_bytesOfNat (n : Nat) : natOfBytes (bytesOfNat n) = n := natOfBytes_bytesOfNatFuel le_rfl

/-- The two bytes of a 10-bit word. -/
theorem natOfBytes_bytesOfWord_two (w : BitVec 10) : natOfBytes (bytesOfWord 2 w.toNat) = w.toNat := by
  simp only [bytesOfWord, natOfBytes, BitVec.toNat_ofNat]
  omega

/-- Nibbles packed into bytes are read back, with the zero nibble that fills up an odd number of them (R91, log 12). -/
theorem nibblesOfBytes_bytesOfNibbles (ns : List (BitVec 4)) :
    nibblesOfBytes (bytesOfNibbles ns) = ns ++ List.replicate (ns.length % 2) 0 := by
  induction ns using bytesOfNibbles.induct with
  | case1 => rfl
  | case2 h =>
    rw [bytesOfNibbles, nibblesOfBytes, BitVec.extractLsb'_append_eq_left, BitVec.extractLsb'_append_eq_right]
    rfl
  | case3 h l rest ih =>
    rw [bytesOfNibbles, nibblesOfBytes, ih, BitVec.extractLsb'_append_eq_left, BitVec.extractLsb'_append_eq_right,
      List.length_cons, List.length_cons, Nat.add_assoc, Nat.add_mod_right]
    rfl

/-- The frame operand of `A_SEND` is read back, the reserved length included, whatever follows it (R91). -/
theorem frameOfNibbles_nibblesOfFrame (f : Frame) (rest : List (BitVec 4)) (h : f.payload.length ≤ 15) :
    frameOfNibbles (nibblesOfFrame f ++ rest) = .ok f := by
  have hlen : (BitVec.ofNat 4 f.payload.length).toNat = f.payload.length := by
    rw [BitVec.toNat_ofNat]
    omega
  have hthere : 2 * (BitVec.ofNat 4 f.payload.length).toNat ≤ (nibblesOfBytes f.payload ++ rest).length := by
    rw [hlen, List.length_append, nibblesOfBytes_length]
    omega
  refine (frameOfNibbles_complete _ _ _ _ hthere).trans ?_
  rw [hlen, takeBytes_nibblesOfBytes]

/-! ## The arguments of a call by name are read back -/

@[simp] theorem bitOfNat_toNat : ∀ b : Bit, bitOfNat b.toNat = some b := by decide

@[simp] theorem boolOfNat_boolNumber : ∀ b : Bool, boolOfNat (boolNumber b) = some b := by decide

@[simp] theorem levelOfNat_levelNumber : ∀ l : Level, levelOfNat (levelNumber l) = some l
  | .low => rfl
  | .high => rfl

@[simp] theorem ackOfNat_numberOfAck : ∀ a : Option Bit, ackOfNat (numberOfAck a) = some a := by decide

@[simp] theorem addressOfNat_toNat (d : LogicalAddress) : addressOfNat d.toNat = some d := by
  rw [addressOfNat, if_pos d.isLt, BitVec.ofNat_toNat, BitVec.setWidth_eq]

@[simp] theorem bytesOfArgs_toNat (bs : List Byte) : bytesOfArgs (bs.map (·.toNat)) = some bs := by
  induction bs with
  | nil => rfl
  | cons b bs ih => rw [List.map_cons, bytesOfArgs, if_pos b.isLt, ih, BitVec.ofNat_toNat, BitVec.setWidth_eq]

@[simp] theorem bitsOfArgs_toNat (bs : List Bit) : bitsOfArgs (bs.map (·.toNat)) = some bs := by
  induction bs with
  | nil => rfl
  | cons b bs ih => rw [List.map_cons, bitsOfArgs, bitOfNat_toNat, ih]

@[simp] theorem blocksOfArgs_argsOfBlocks (bs : List Block) : blocksOfArgs (argsOfBlocks bs) = some bs := by
  induction bs with
  | nil => rfl
  | cons b bs ih =>
    have hdata : bytesOfArgs [b.data.toNat] = some [b.data] := bytesOfArgs_toNat [b.data]
    rw [argsOfBlocks, blocksOfArgs, hdata, bitOfNat_toNat, ackOfNat_numberOfAck, ih]

/-- A frame of at most 14 payload bytes (R22). -/
theorem frameOfArgs_argsOfFrame (f : Frame) (h : frameWf f = true) : frameOfArgs (argsOfFrame f) = some f := by
  simp only [argsOfFrame, frameOfArgs, addressOfNat_toNat, bytesOfArgs_toNat]
  exact if_pos (of_decide_eq_true h)

/-- A completion of 1 to 15 ACK bits, or a failure with its reason's code (R93, R94). -/
theorem completionOfArgs_argsOfCompletion (r : CompletionResult) (h : r.wf = true) :
    completionOfArgs (argsOfCompletion r) = some r := by
  cases r with
  | done acks => rw [argsOfCompletion, completionOfArgs, bitsOfArgs_toNat]; exact if_pos h
  | failed reason => cases reason <;> rfl

@[simp] theorem replyOfArgs_argsOfReply (r : ReplyValue) : replyOfArgs (argsOfReply r) = some r := by
  cases r <;> rfl

/-! ## An event is selected by its tag -/

section
variable (operand : List Byte)

theorem decodeEvent_fall : decodeEvent 0 operand = .ok (.eFall (natOfBytes operand)) := rfl
theorem decodeEvent_rise : decodeEvent 1 operand = .ok (.eRise (natOfBytes operand)) := rfl
theorem decodeEvent_timer : decodeEvent 2 operand = .ok (.eTimer (natOfBytes operand)) := rfl
theorem decodeEvent_cancel : decodeEvent 4 operand = .ok (.aCancel (natOfBytes operand)) := rfl
theorem decodeEvent_reset : decodeEvent 5 operand = .ok .reset := rfl

end

theorem decodeEvent_send {operand : List Byte} {f : Frame} (h : frameOfNibbles (nibblesOfBytes operand) = .ok f) :
    decodeEvent 3 operand = .ok (.aSend f) := by
  simp [decodeEvent, h]

theorem decodeEvent_send_error {operand : List Byte} {e : DecodeError}
    (h : frameOfNibbles (nibblesOfBytes operand) = .error e) : decodeEvent 3 operand = .error e := by
  simp [decodeEvent, h]

/-- A tag byte is one of the six tags of R90, or reserved (R97, log 12). -/
theorem eventTag_cases (tag : Byte) :
    tag = 0 ∨ tag = 1 ∨ tag = 2 ∨ tag = 3 ∨ tag = 4 ∨ tag = 5 ∨ 6 ≤ tag.toNat := by
  bv_omega

theorem decodeEvent_reserved {tag : Byte} (operand : List Byte) (h : 6 ≤ tag.toNat) :
    decodeEvent tag operand = .error .reservedTag := by
  have hne : ∀ n : Byte, n.toNat < 6 → tag ≠ n := by rintro _ hn rfl; omega
  rw [decodeEvent, if_neg (hne 0 (by decide)), if_neg (hne 1 (by decide)), if_neg (hne 2 (by decide)),
    if_neg (hne 3 (by decide)), if_neg (hne 4 (by decide)), if_neg (hne 5 (by decide))]

end Sys2Proof.Machine
end

section
/-! PROOFS. The symbol of a cell (O3), and the decoder against the encoder: what is encoded is decoded again (O1), what is
decoded is well-formed (O2), and words of the tables (O4). -/

namespace Sys2Proof.Machine

/-! ## The symbol of a cell -/

/-- The durations match the row `START` of R81. -/
def StartRow (c : Config) (low total : Nat) : Prop := within low c.startLow ∧ within total c.startTotal

/-- The durations match the row `BIT0` of R81, the overlap with `BIT1` left out (R118). -/
def Bit0Row (c : Config) (low total : Nat) : Prop :=
  (within low c.bit0Low ∧ ¬within low c.bit1Low) ∧ within total c.bitPeriod

/-- The durations match the row `BIT1` of R81, the overlap with `BIT0` left out (R118). -/
def Bit1Row (c : Config) (low total : Nat) : Prop :=
  (within low c.bit1Low ∧ ¬within low c.bit0Low) ∧ within total c.bitPeriod

section
variable {c : Config} {low total : Nat}

/-- The two data rows exclude each other. -/
theorem Bit0Row.not_bit1Row (h : Bit0Row c low total) : ¬Bit1Row c low total := fun h' => h.1.2 h'.1.1

theorem Bit0Row.classifyLow_eq (h : Bit0Row c low total) : classifyLow c low = .bitValue 0 := by
  obtain ⟨⟨h0, h1⟩, -⟩ := h
  obtain ⟨hclass, -⟩ | ⟨-, h1', -⟩ | ⟨-, hsame⟩ := classifyLow_cases c low
  · exact hclass
  · exact absurd h1' h1
  · exact absurd (hsame.mp h0) h1

theorem Bit1Row.classifyLow_eq (h : Bit1Row c low total) : classifyLow c low = .bitValue 1 := by
  obtain ⟨⟨h1, h0⟩, -⟩ := h
  obtain ⟨-, h0', -⟩ | ⟨hclass, -⟩ | ⟨-, hsame⟩ := classifyLow_cases c low
  · exact absurd h0' h0
  · exact hclass
  · exact absurd (hsame.mpr h1) h0

theorem isStartPulse_iff : isStartPulse c low total = true ↔ StartRow c low total := by
  rw [isStartPulse, Bool.and_eq_true, inBand_iff, inBand_iff, StartRow]

theorem isDataPulse_iff : isDataPulse c low total = true ↔ Bit0Row c low total ∨ Bit1Row c low total := by
  rw [isDataPulse, Bool.and_eq_true, decide_eq_true_iff, checkPeriod_iff]
  obtain ⟨hclass, hrow⟩ | ⟨hclass, hrow⟩ | ⟨hclass, hsame⟩ := classifyLow_cases c low
  · simp [hclass, Bit0Row, Bit1Row, hrow]
  · simp [hclass, Bit0Row, Bit1Row, hrow]
  · simp [hclass, Bit0Row, Bit1Row, hsame]

/-! What `CLASSIFY_PULSE` answers, by the rows the durations match (R115). -/

theorem StartRow.classifyPulse_eq (h : StartRow c low total) (h0 : ¬Bit0Row c low total) (h1 : ¬Bit1Row c low total) :
    classifyPulse c low total = .startBit := by
  have hnone : isDataPulse c low total = false := Bool.eq_false_iff.mpr (mt isDataPulse_iff.mp (not_or.mpr ⟨h0, h1⟩))
  rw [classifyPulse, isStartPulse_iff.mpr h, hnone]
  rfl

theorem classifyPulse_of_data (hs : ¬StartRow c low total) (hd : Bit0Row c low total ∨ Bit1Row c low total) :
    classifyPulse c low total = classifyLow c low := by
  rw [classifyPulse, isDataPulse_iff.mpr hd, Bool.eq_false_iff.mpr (mt isStartPulse_iff.mp hs)]
  rfl

theorem classifyPulse_of_none_or_both (h : StartRow c low total ↔ Bit0Row c low total ∨ Bit1Row c low total) :
    classifyPulse c low total = .timingViolation := by
  have hsame : isStartPulse c low total = isDataPulse c low total :=
    Bool.eq_iff_iff.mpr (isStartPulse_iff.trans (h.trans isDataPulse_iff.symm))
  rw [classifyPulse, hsame, Bool.and_not_self]
  rfl

/-- `CLASSIFY_PULSE` names the only row the durations match (R115, R116). -/
theorem classifyPulse_cases (c : Config) (low total : Nat) :
    (classifyPulse c low total = .startBit ∧
      StartRow c low total ∧ ¬Bit0Row c low total ∧ ¬Bit1Row c low total) ∨
    (classifyPulse c low total = .bitValue 0 ∧ Bit0Row c low total ∧ ¬StartRow c low total) ∨
    (classifyPulse c low total = .bitValue 1 ∧ Bit1Row c low total ∧ ¬StartRow c low total) ∨
    (classifyPulse c low total = .timingViolation ∧
      (StartRow c low total ↔ Bit0Row c low total ∨ Bit1Row c low total)) := by
  by_cases hs : StartRow c low total <;> by_cases hd : Bit0Row c low total ∨ Bit1Row c low total
  · exact .inr (.inr (.inr ⟨classifyPulse_of_none_or_both (iff_of_true hs hd), iff_of_true hs hd⟩))
  · obtain ⟨h0, h1⟩ := not_or.mp hd
    exact .inl ⟨hs.classifyPulse_eq h0 h1, hs, h0, h1⟩
  · obtain h0 | h1 := hd
    · exact .inr (.inl ⟨(classifyPulse_of_data hs (.inl h0)).trans h0.classifyLow_eq, h0, hs⟩)
    · exact .inr (.inr (.inl ⟨(classifyPulse_of_data hs (.inr h1)).trans h1.classifyLow_eq, h1, hs⟩))
  · exact .inr (.inr (.inr ⟨classifyPulse_of_none_or_both (iff_of_false hs hd), iff_of_false hs hd⟩))

/-! The symbol a cell decodes to is the one `CLASSIFY_PULSE` names (R95, R96). -/

theorem decode_cell_start (h : classifyPulse c low total = .startBit) :
    decode c (.cell low total) = .ok (.start low total) := by
  rw [decode, decodeCell, h]

theorem decode_cell_bit0 (h : classifyPulse c low total = .bitValue 0) :
    decode c (.cell low total) = .ok (.bit0 low total) := by
  rw [decode, decodeCell, h]
  rfl

theorem decode_cell_bit1 (h : classifyPulse c low total = .bitValue 1) :
    decode c (.cell low total) = .ok (.bit1 low total) := by
  rw [decode, decodeCell, h]
  rfl

theorem decode_cell_illegal (h : classifyPulse c low total = .timingViolation) :
    decode c (.cell low total) = .error .illegalSymbol := by
  rw [decode, decodeCell, h]

end

/-- Settles O3, by the four answers of `CLASSIFY_PULSE`, each with the rows it stands for. -/
theorem cellIsItsOnlyRow : Obligations.CellIsItsOnlyRow := by
  intro c low total
  show (_ ↔ StartRow c low total ∧ ¬Bit0Row c low total ∧ ¬Bit1Row c low total) ∧
    (_ ↔ Bit0Row c low total ∧ ¬StartRow c low total) ∧ (_ ↔ Bit1Row c low total ∧ ¬StartRow c low total) ∧
    (_ ↔ ¬((StartRow c low total ∧ ¬Bit0Row c low total ∧ ¬Bit1Row c low total) ∨
      (Bit0Row c low total ∧ ¬StartRow c low total) ∨ (Bit1Row c low total ∧ ¬StartRow c low total)))
  obtain ⟨hclass, hs, h0, h1⟩ | ⟨hclass, h0, hs⟩ | ⟨hclass, h1, hs⟩ | ⟨hclass, hsame⟩ := classifyPulse_cases c low total
  · simp [decode_cell_start hclass, hs, h0, h1]
  · simp [decode_cell_bit0 hclass, hs, h0, h0.not_bit1Row]
  · have h0 : ¬Bit0Row c low total := fun h => h.not_bit1Row h1
    simp [decode_cell_bit1 hclass, hs, h0, h1]
  · rw [decode_cell_illegal hclass]
    simp only [reduceCtorEq, false_iff, true_iff]
    tauto

/-! ## The decoder gives an encoded operation back -/

/-- The bytes of a block word are read back (R84). -/
theorem decode_block_bytes (c : Config) (w : BitVec 10) :
    decode c (.block (bytesOfWord 2 w.toNat)) = .ok (.block w) := by
  have hbytes : bytesOfWord 2 w.toNat = [BitVec.ofNat 8 w.toNat, BitVec.ofNat 8 (w.toNat / 256)] := rfl
  have hword := natOfBytes_bytesOfWord_two w
  rw [hbytes] at hword ⊢
  rw [decode, hword, if_pos w.isLt, BitVec.ofNat_toNat, BitVec.setWidth_eq]

/-- A call is the operation its arguments stand for. -/
theorem decode_call {name : OpName} {args : List Nat} {i : Instr} (c : Config) (h : decodeCall name args = some i) :
    decode c (.call name args) = .ok i := by
  rw [decode, h]

/-- The frame operand of `A_SEND` in an event's bytes is read back (R91). -/
theorem decodeEvent_bytesOfFrame (f : Frame) (h : f.payload.length ≤ 15) :
    decodeEvent 3 (bytesOfNibbles (nibblesOfFrame f)) = .ok (.aSend f) := by
  refine decodeEvent_send ?_
  rw [nibblesOfBytes_bytesOfNibbles]
  exact frameOfNibbles_nibblesOfFrame f _ h

/-- Settles O1, by the operations of the table: a cell is the symbol its durations select, an event's operand and a call's
arguments are read back. -/
theorem decodeOfEncode : Obligations.DecodeOfEncode := by
  intro c i h
  cases i with
  | start low total => exact decode_cell_start (of_decide_eq_true h)
  | bit0 low total => exact decode_cell_bit0 (of_decide_eq_true h)
  | bit1 low total => exact decode_cell_bit1 (of_decide_eq_true h)
  | block w => exact decode_block_bytes c w
  | header _ => rfl
  | eFall t => rw [encode, decode, decodeEvent_fall, natOfBytes_bytesOfNat]
  | eRise t => rw [encode, decode, decodeEvent_rise, natOfBytes_bytesOfNat]
  | eTimer n => rw [encode, decode, decodeEvent_timer, natOfBytes_bytesOfNat]
  | aSend f => exact decodeEvent_bytesOfFrame f (of_decide_eq_true h)
  | aCancel p => rw [encode, decode, decodeEvent_cancel, natOfBytes_bytesOfNat]
  | reset => exact decodeEvent_reset []
  | driveBit v isStart => exact decode_call c (by simp [decodeCall])
  | encode f => exact decode_call c (by simp [decodeCall, frameOfArgs_argsOfFrame f h])
  | decode bs => exact decode_call c (by simp [decodeCall])
  | txBit j k => exact decode_call c (if_pos (of_decide_eq_true h))
  | ackDecision dest j => exact decode_call c (by simp [decodeCall, of_decide_eq_true h])
  | lineWrite l => exact decode_call c (by simp [decodeCall])
  | shouldAck dest j => exact decode_call c (by simp [decodeCall, of_decide_eq_true h])
  | deliver f => exact decode_call c (by simp [decodeCall, frameOfArgs_argsOfFrame f h])
  | complete p r => exact decode_call c (by simp [decodeCall, completionOfArgs_argsOfCompletion r h])
  | reply r => exact decode_call c (by simp [decodeCall])
  | classifyLow _ | checkPeriod _ | classifyPulse _ _ | lineRead | timerArm _ | now | log => rfl

/-! ## What the decoder gives is well-formed -/

theorem ok_of_decodeEvent_send {operand : List Byte} {i : Instr} (h : decodeEvent 3 operand = .ok i) :
    ∃ f, frameOfNibbles (nibblesOfBytes operand) = .ok f ∧ i = .aSend f := by
  cases hf : frameOfNibbles (nibblesOfBytes operand) with
  | ok f =>
    cases (decodeEvent_send hf).symm.trans h
    exact ⟨f, rfl, rfl⟩
  | error e => cases (decodeEvent_send_error hf).symm.trans h

/-- A frame operand has no more payload bytes than its four length bits count (R91). -/
theorem payload_le_of_frameOfNibbles {ns : List (BitVec 4)} {f : Frame} (h : frameOfNibbles ns = .ok f) :
    f.payload.length ≤ 15 := by
  unfold frameOfNibbles at h
  split at h
  next s d len ns =>
    split at h
    · cases h
    · cases h
      rw [takeBytes_length]
      exact Nat.le_of_lt_succ len.isLt
  next => cases h

theorem wf_of_decodeEvent (c : Config) {tag : Byte} {operand : List Byte} {i : Instr}
    (h : decodeEvent tag operand = .ok i) : i.wf c = true := by
  obtain rfl | rfl | rfl | rfl | rfl | rfl | hreserved := eventTag_cases tag
  case inr.inr.inr.inl =>
    obtain ⟨f, hf, rfl⟩ := ok_of_decodeEvent_send h
    exact decide_eq_true (payload_le_of_frameOfNibbles hf)
  case inr.inr.inr.inr.inr.inr =>
    cases (decodeEvent_reserved operand hreserved).symm.trans h
  all_goals cases h; rfl

theorem frameWf_of_frameOfArgs {args : List Nat} {f : Frame} (h : frameOfArgs args = some f) : frameWf f = true := by
  unfold frameOfArgs at h
  split at h
  next =>
    split at h
    next =>
      split at h
      next hlen => cases h; exact decide_eq_true hlen
      next => cases h
    next => cases h
  next => cases h

theorem wf_of_completionOfArgs {args : List Nat} {r : CompletionResult} (h : completionOfArgs args = some r) :
    r.wf = true := by
  unfold completionOfArgs at h
  split at h
  next =>
    split at h
    next =>
      split at h
      next hwf => cases h; exact hwf
      next => cases h
    next => cases h
  next => cases h; rfl
  next => cases h; rfl
  next => cases h

theorem wf_of_decodeCall (c : Config) {name : OpName} {args : List Nat} {i : Instr}
    (h : decodeCall name args = some i) : i.wf c = true := by
  unfold decodeCall at h
  split at h
  -- the frames of `ENCODE` and `DELIVER` (R22)
  case h_5 | h_14 =>
    obtain ⟨f, hf, rfl⟩ := Option.map_eq_some_iff.mp h
    exact frameWf_of_frameOfArgs hf
  -- the result of `COMPLETE` (R93)
  case h_15 =>
    obtain ⟨r, hr, rfl⟩ := Option.map_eq_some_iff.mp h
    exact wf_of_completionOfArgs hr
  -- the indices of `TX_BIT` (R136)
  case h_7 =>
    split at h
    next hdomain => cases h; exact decide_eq_true hdomain
    next => cases h
  -- the block index of `ACK_DECISION` and `SHOULD_ACK` (R65, R209)
  case h_8 | h_13 =>
    split at h
    next =>
      split at h
      next hindex => cases h; exact decide_eq_true hindex
      next => cases h
    next => cases h
  -- the operands of `DECODE`, `LINE_WRITE` and `REPLY` have no further domain
  case h_6 | h_9 | h_16 =>
    obtain ⟨_, -, rfl⟩ := Option.map_eq_some_iff.mp h
    rfl
  -- nor have those of `DRIVE_BIT`
  case h_1 =>
    split at h
    next => cases h; rfl
    next => cases h
  -- arguments that are not the operation's
  case h_18 => cases h
  all_goals cases h; rfl

theorem wf_of_decode_cell {c : Config} {low total : Nat} {i : Instr} (h : decode c (.cell low total) = .ok i) :
    i.wf c = true := by
  obtain ⟨hclass, -⟩ | ⟨hclass, -⟩ | ⟨hclass, -⟩ | ⟨hclass, -⟩ := classifyPulse_cases c low total
  · cases (decode_cell_start hclass).symm.trans h
    exact decide_eq_true hclass
  · cases (decode_cell_bit0 hclass).symm.trans h
    exact decide_eq_true hclass
  · cases (decode_cell_bit1 hclass).symm.trans h
    exact decide_eq_true hclass
  · cases (decode_cell_illegal hclass).symm.trans h

/-- Settles O2, by the format of the record. -/
theorem decodedIsWellFormed : Obligations.DecodedIsWellFormed := by
  intro c r i h
  unfold decode at h
  split at h
  next low total => exact wf_of_decode_cell h
  next b0 b1 =>
    split at h
    next => cases h; rfl
    next => cases h
  next => cases h
  next byte => cases h; rfl
  next => cases h
  next tag operand => exact wf_of_decodeEvent c h
  next name args =>
    split at h
    next j hcall => cases h; exact wf_of_decodeCall c hcall
    next => cases h

/-! ## Words of the tables -/

/-- Settles O4: the decoder evaluated on each word. -/
theorem wordsOfTheEncodingTables : Obligations.WordsOfTheEncodingTables := by
  unfold Obligations.WordsOfTheEncodingTables
  decide

end Sys2Proof.Machine
end

section
/-! PROOFS. The step on a record that is no operation (O6), the wire symbols (O18), and the reserved length of a frame
operand (O60). -/

namespace Sys2Proof.Machine

/-! ## A step on a record that is no operation -/

/-- A step on a record that is no operation ends in the decoder's verdict (R96, R97). -/
theorem step_of_decode_error (s : State) (r : Record) (rest : List Record) (e : DecodeError) (h : s.inbox = r :: rest)
    (hd : decode s.cfg r = .error e) : step s = undecoded e { s with inbox := rest } := by
  unfold step
  simp only [fetch_cons s r rest h, hd]

/-- With nothing presented the step does nothing (R308). -/
theorem step_of_nothing_presented (s : State) (h : s.inbox = []) : step s = .next s := by
  unfold step fetch
  rw [h]

/-- Settles O6: the verdicts of the decoder, through the one equation of the step. -/
theorem stepWithoutOperation : Obligations.StepWithoutOperation := by
  have refused : ∀ (s : State) (r : Record) (rest : List Record) (e : DecodeError),
      s.inbox = r :: rest → decode s.cfg r = .error e → e ≠ .illegalSymbol → step s = .refused (.notAnOperation e) :=
    fun s r rest e h hd he => (step_of_decode_error s r rest e h hd).trans (undecoded_refused e _ he)
  refine ⟨step_of_nothing_presented, fun s low total rest h hc hclass => ?_, refused,
    fun s tag operand rest h htag => ?_⟩
  · exact (step_of_decode_error s _ rest _ h (decode_cell_illegal hclass)).trans (undecoded_symbol _ hc)
  · exact refused s _ rest _ h (decodeEvent_reserved operand htag) nofun

/-! ## The wire symbols -/

/-- A wire symbol under a well-formed configuration (R112, R115). -/
theorem readSymbol_eq (low total : Nat) (value : Bit) (isStart : Bool) (s : State) (h : configWf s.cfg = true) :
    readSymbol low total value isStart s =
      .next { s with
        result :=
          .symbol (classifyPulse s.cfg low total) (driveLow s.cfg value isStart) (driveTotal s.cfg isStart) } := by
  rw [readSymbol, configured_eq s _ h, setResult]

/-- Settles O18: the three symbols differ in the nominal durations alone. -/
theorem symbolsAsAcceptedAndSent : Obligations.SymbolsAsAcceptedAndSent := by
  intro low total s h
  exact ⟨readSymbol_eq low total 0 true s h, readSymbol_eq low total 0 false s h, readSymbol_eq low total 1 false s h⟩

/-! ## The reserved length -/

/-- `A_SEND` of a frame with too long a payload (R151). -/
theorem onSend_tooLong (f : Frame) (s : State) (h : maxPayload < f.payload.length) :
    onSend f s = { s with effects := s.effects ++ [.log, .reply .rejected] } := by
  rw [onSend, if_pos (.inr h), raise, emit, emit, List.append_assoc]
  rfl

/-- The reserved length decodes, whatever follows it (R91). -/
theorem decode_reservedLength (c : Config) {addresses lenAndMore : Byte} (operand : List Byte)
    (hlen : lenAndMore.extractLsb' 4 4 = 15) :
    ∃ f : Frame, f.payload.length = 15 ∧
      decode c (.event (3 :: addresses :: lenAndMore :: operand)) = .ok (.aSend f) := by
  have hnibbles : nibblesOfBytes (addresses :: lenAndMore :: operand) =
      addresses.extractLsb' 4 4 :: addresses.extractLsb' 0 4 :: 15 ::
        (lenAndMore.extractLsb' 0 4 :: nibblesOfBytes operand) := by
    rw [nibblesOfBytes, nibblesOfBytes, hlen]
  have hframe := frameOfNibbles_reserved (addresses.extractLsb' 4 4) (addresses.extractLsb' 0 4)
    (lenAndMore.extractLsb' 0 4 :: nibblesOfBytes operand)
  rw [← hnibbles] at hframe
  exact ⟨_, takeBytes_length 15 _, decodeEvent_send hframe⟩

/-- Settles O60: the operand decodes to a frame of 15 payload bytes, one more than a frame may have. -/
theorem reservedLengthIsRejected : Obligations.ReservedLengthIsRejected := by
  intro s addresses lenAndMore operand rest h hlen ⟨hc, hl⟩
  obtain ⟨f, hf, hd⟩ := decode_reservedLength s.cfg operand hlen
  have htooLong : maxPayload < f.payload.length := by rw [hf]; decide
  calc step s = execASend f { s with inbox := rest } := step_of_decode_ok s _ rest _ h hd
    _ = .next (onSend f { s with inbox := rest }) := admitted_eq _ _ hc hl
    _ = _ := by rw [onSend_tooLong f _ htooLong]

end Sys2Proof.Machine
end

section
/-! PROOFS. The functions of the Bus Timing Layer called by themselves (O20 to O22), and the laws of R116 and R117 (O23). -/

namespace Sys2Proof.Machine

/-! ## The band of a bit -/

/-- `BITv_LOW`: the band of the low phase of a data bit (R117). -/
def bitBand (c : Config) (v : Bit) : Band := if v = 0 then c.bit0Low else c.bit1Low

theorem bit_cases : ∀ v : Bit, v = 0 ∨ v = 1 := by decide

section
variable {c : Config} {low total : Nat} {v : Bit}

/-- A bit is driven with the nominal value of its band (R112). -/
theorem bitLow_eq (c : Config) (v : Bit) : bitLow c v = (bitBand c v).nom := (apply_ite Band.nom _ _ _).symm

/-- The nominal value of a bit's band belongs to it (R8). -/
theorem nom_within_bitBand (h : configWf c = true) (v : Bit) : within (bitBand c v).nom (bitBand c v) := by
  obtain ⟨hbands, -⟩ := (configWf_iff c).mp h
  obtain rfl | rfl := bit_cases v
  · exact hbands c.bit0Low (by simp)
  · exact hbands c.bit1Low (by simp)

/-- Disjoint bands share no duration. -/
theorem not_within_other_bitBand (hd : c.bit1Low.max < c.bit0Low.min ∨ c.bit0Low.max < c.bit1Low.min)
    (h : within low (bitBand c v)) : ¬within low (bitBand c (~~~v)) := by
  have hboth : ¬(within low c.bit0Low ∧ within low c.bit1Low) := by unfold within; omega
  obtain rfl | rfl := bit_cases v
  · exact fun h' => hboth ⟨h, h'⟩
  · exact fun h' => hboth ⟨h', h⟩

/-! ## The low phase -/

/-- A low phase classifies as the bit whose band alone holds it (R113). -/
theorem classifyLow_eq_bitValue_iff :
    classifyLow c low = .bitValue v ↔ within low (bitBand c v) ∧ ¬within low (bitBand c (~~~v)) := by
  obtain ⟨hclass, h0, h1⟩ | ⟨hclass, h1, h0⟩ | ⟨hclass, hsame⟩ := classifyLow_cases c low <;>
    obtain rfl | rfl := bit_cases v <;> rw [hclass]
  · exact iff_of_true rfl ⟨h0, h1⟩
  · exact iff_of_false nofun fun h => h1 h.1
  · exact iff_of_false nofun fun h => h0 h.1
  · exact iff_of_true rfl ⟨h1, h0⟩
  · exact iff_of_false nofun fun h => h.2 (hsame.mp h.1)
  · exact iff_of_false nofun fun h => h.2 (hsame.mpr h.1)

/-- A low phase in neither band or in both is a violation (R113, R118). -/
theorem classifyLow_eq_timingViolation (hsame : within low c.bit0Low ↔ within low c.bit1Low) :
    classifyLow c low = .timingViolation := by
  obtain ⟨-, h0, h1⟩ | ⟨-, h1, h0⟩ | ⟨hclass, -⟩ := classifyLow_cases c low
  · exact absurd (hsame.mp h0) h1
  · exact absurd (hsame.mpr h1) h0
  · exact hclass

/-! ## The pulse -/

/-- The data test of R115 is a match with one of the two data rows of R81. -/
theorem dataRow_iff :
    Bit0Row c low total ∨ Bit1Row c low total ↔ classifyLow c low ≠ .timingViolation ∧ within total c.bitPeriod := by
  rw [← isDataPulse_iff, isDataPulse, Bool.and_eq_true, decide_eq_true_iff, checkPeriod_iff]

/-- A start pulse that is no data pulse is a start bit (R115). -/
theorem classifyPulse_of_start (hs : StartRow c low total)
    (hd : ¬(classifyLow c low ≠ .timingViolation ∧ within total c.bitPeriod)) :
    classifyPulse c low total = .startBit := by
  obtain ⟨h0, h1⟩ := not_or.mp (mt dataRow_iff.mp hd)
  exact hs.classifyPulse_eq h0 h1

/-- For a pulse that is no start bit, the two halves of the classification give the whole (R116). -/
theorem classifyPulse_of_not_start (hs : ¬StartRow c low total) :
    classifyPulse c low total = if checkPeriod c total then classifyLow c low else .timingViolation := by
  by_cases hd : Bit0Row c low total ∨ Bit1Row c low total
  · rw [classifyPulse_of_data hs hd, if_pos ((checkPeriod_iff c total).mpr (dataRow_iff.mp hd).2)]
  · rw [classifyPulse_of_none_or_both (iff_of_false hs hd)]
    split
    next hperiod =>
      by_contra hviolation
      exact hd (dataRow_iff.mpr ⟨Ne.symm hviolation, (checkPeriod_iff c total).mp hperiod⟩)
    next => rfl

/-- A pulse of neither period is a violation (R117 (f)). -/
theorem classifyPulse_of_no_period (hs : ¬within total c.startTotal) (hp : ¬within total c.bitPeriod) :
    classifyPulse c low total = .timingViolation := by
  rw [classifyPulse_of_not_start fun h => hs h.2, if_neg (mt (checkPeriod_iff c total).mp hp)]

/-- A start bit lies in both start bands (R117 (c)). -/
theorem StartRow.of_classifyPulse (h : classifyPulse c low total = .startBit) : StartRow c low total := by
  obtain ⟨-, hs, -⟩ | ⟨hclass, -⟩ | ⟨hclass, -⟩ | ⟨hclass, -⟩ := classifyPulse_cases c low total
  · exact hs
  all_goals cases hclass.symm.trans h

/-! ## What the engine drives (R117 (e)) -/

/-- A driven bit classifies as that bit. -/
theorem classifyPulse_driven_bit (h : configWf c = true)
    (hd : c.bit1Low.max < c.bit0Low.min ∨ c.bit0Low.max < c.bit1Low.min)
    (hs : ¬StartRow c (driveLow c v false) (driveTotal c false)) :
    classifyPulse c (driveLow c v false) (driveTotal c false) = .bitValue v := by
  obtain ⟨hbands, -⟩ := (configWf_iff c).mp h
  have hperiod : within (driveTotal c false) c.bitPeriod := hbands c.bitPeriod (by simp)
  have hlow : within (driveLow c v false) (bitBand c v) := by
    show within (bitLow c v) _
    rw [bitLow_eq]
    exact nom_within_bitBand h v
  rw [classifyPulse_of_not_start hs, if_pos ((checkPeriod_iff c _).mpr hperiod)]
  exact classifyLow_eq_bitValue_iff.mpr ⟨hlow, not_within_other_bitBand hd hlow⟩

/-- A driven start bit classifies as a start bit. -/
theorem classifyPulse_driven_start (h : configWf c = true)
    (hd : ¬(classifyLow c c.startLow.nom ≠ .timingViolation ∧ within c.startTotal.nom c.bitPeriod)) :
    classifyPulse c (driveLow c v true) (driveTotal c true) = .startBit := by
  obtain ⟨hbands, -⟩ := (configWf_iff c).mp h
  exact classifyPulse_of_start ⟨hbands c.startLow (by simp), hbands c.startTotal (by simp)⟩ hd

end

/-- Settles O23, law by law. -/
theorem timingLaws : Obligations.TimingLaws := by
  intro c h
  refine ⟨fun low v hv => (classifyLow_eq_bitValue_iff.mp hv).1, fun low total => StartRow.of_classifyPulse,
    fun hd low v hv => classifyLow_eq_bitValue_iff.mpr ⟨hv, not_within_other_bitBand hd hv⟩,
    fun hd hbit hstart => ⟨fun v => ?_, fun v => ?_⟩,
    fun low total => classifyPulse_of_no_period, fun low total => classifyPulse_of_not_start⟩
  · exact classifyPulse_driven_bit h hd (hbit v)
  · exact classifyPulse_driven_start h hstart

/-! ## The functions under a well-formed configuration -/

section
variable {s : State}

/-- `DRIVE_BIT` (R112). -/
theorem exec_driveBit (h : configWf s.cfg = true) (v : Bit) (isStart : Bool) :
    exec (.driveBit v isStart) s =
      .next { s with
        result := .drive (driveLow s.cfg v isStart) (driveTotal s.cfg isStart - driveLow s.cfg v isStart)
          (driveTotal s.cfg isStart) } := by
  show execDriveBit v isStart s = _
  rw [execDriveBit, configured_eq s _ h, setResult]

/-- `CLASSIFY_LOW` (R113). -/
theorem exec_classifyLow (h : configWf s.cfg = true) (low : Nat) :
    exec (.classifyLow low) s = .next { s with result := .pulse (classifyLow s.cfg low) } := by
  show execClassifyLow low s = _
  rw [execClassifyLow, configured_eq s _ h, setResult]

/-- `CHECK_PERIOD` (R114). -/
theorem exec_checkPeriod (h : configWf s.cfg = true) (total : Nat) :
    exec (.checkPeriod total) s = .next { s with result := .bool (checkPeriod s.cfg total) } := by
  show execCheckPeriod total s = _
  rw [execCheckPeriod, configured_eq s _ h, setResult]

/-- `CLASSIFY_PULSE` (R115). -/
theorem exec_classifyPulse (h : configWf s.cfg = true) (low total : Nat) :
    exec (.classifyPulse low total) s = .next { s with result := .pulse (classifyPulse s.cfg low total) } := by
  show execClassifyPulse low total s = _
  rw [execClassifyPulse, configured_eq s _ h, setResult]

end

/-- Settles O20: `DRIVE_BIT` at each of its three rows, and the differences of R8. -/
theorem driveBitIsNominal : Obligations.DriveBitIsNominal := by
  intro s h
  obtain ⟨hstart, hbit0, hbit1, -⟩ := armedDifferences_natural s.cfg h
  exact ⟨fun v => exec_driveBit h v true, exec_driveBit h 0 false, exec_driveBit h 1 false, hstart, hbit0, hbit1⟩

/-- Settles O21: `CLASSIFY_LOW` by the bands that hold the low phase, `CHECK_PERIOD` by its one band. -/
theorem classifyLowAndCheckPeriod : Obligations.ClassifyLowAndCheckPeriod := by
  intro s h
  refine ⟨fun low => ⟨fun hrow => ?_, fun hrow => ?_, fun hsame => ?_⟩, fun total => ⟨fun hp => ?_, fun hp => ?_⟩⟩
  · rw [exec_classifyLow h, (classifyLow_eq_bitValue_iff (v := 0)).mpr hrow]
  · rw [exec_classifyLow h, (classifyLow_eq_bitValue_iff (v := 1)).mpr hrow]
  · rw [exec_classifyLow h, classifyLow_eq_timingViolation hsame]
  · rw [exec_checkPeriod h, (checkPeriod_iff s.cfg total).mpr hp]
  · rw [exec_checkPeriod h, Bool.eq_false_iff.mpr (mt (checkPeriod_iff s.cfg total).mp hp)]

/-- Settles O22, by the start test and the data test (`classifyPulse` itself names the function of the model). -/
theorem classifyPulse_spec : Obligations.ClassifyPulse := by
  intro low total s h start data
  refine ⟨fun ⟨hs, hd⟩ => ?_, fun ⟨hd, hs⟩ => ?_, fun hsame => ?_⟩
  · rw [exec_classifyPulse h, classifyPulse_of_start hs hd]
  · rw [exec_classifyPulse h, classifyPulse_of_data hs (dataRow_iff.mpr hd)]
  · rw [exec_classifyPulse h, classifyPulse_of_none_or_both (hsame.trans dataRow_iff.symm)]

end Sys2Proof.Machine
end

section
/-! PROOFS. The Frame Codec: the blocks of a frame (O24), the tests of `DECODE` (O25), the round trip (O26), the cells of the
latched frame (O27, O28), and the frame the receiver delivers (O56). -/

namespace Sys2Proof.Machine

/-! ## The bytes of a frame -/

/-- A byte is the header of a frame when its nibbles are the frame's addresses (R87, R89). -/
theorem eq_headerByte_iff (h : Byte) (f : Frame) :
    h = headerByte f ↔ headerSource h = f.source ∧ headerDestination h = f.destination := by
  constructor
  · rintro rfl
    exact ⟨headerSource_append _ _, headerDestination_append _ _⟩
  · rintro ⟨hs, hd⟩
    rw [headerByte, ← hs, ← hd]
    exact (BitVec.extractLsb'_append_extractLsb' (w := 4) (len := 4)).symm

/-- The header block carries `(source << 4) | destination` (R131). -/
theorem headerByte_eq_byteOf (f : Frame) : headerByte f = byteOf f 0 := by
  rw [headerByte, BitVec.append_def, BitVec.shiftLeftZeroExtend_eq, BitVec.setWidth'_eq]
  rfl

/-- The bytes encoded are the header, then the payload (R131). -/
theorem getElem?_frameBytes (f : Frame) {j : Nat} (hj : j ≤ f.payload.length) :
    (headerByte f :: f.payload)[j]? = some (byteOf f j) := by
  cases j with
  | zero => rw [headerByte_eq_byteOf]; rfl
  | succ j => simp [byteOf, show j < f.payload.length from hj]

/-! ## The blocks of a frame -/

/-- The blocks carry the bytes, in order (R131). -/
@[simp] theorem map_data_blocksOfBytes (bs : List Byte) : (blocksOfBytes bs).map (·.data) = bs := by
  induction bs using blocksOfBytes.induct with
  | case1 => rfl
  | case2 b => rfl
  | case3 b c bs ih => rw [blocksOfBytes, List.map_cons, ih]

/-- EOM is set on the last block only (R131). -/
theorem blocksOfBytes_concat (bs : List Byte) (last : Byte) :
    blocksOfBytes (bs ++ [last]) = bs.map (Block.mk · 0 none) ++ [⟨last, 1, none⟩] := by
  induction bs with
  | nil => rfl
  | cons b bs ih =>
    have hcons : blocksOfBytes (b :: (bs ++ [last])) = ⟨b, 0, none⟩ :: blocksOfBytes (bs ++ [last]) := by
      cases bs <;> rfl
    rw [List.cons_append, hcons, ih, List.map_cons, List.cons_append]

/-- One block by its position (R131). -/
theorem getElem?_blocksOfBytes (bs : List Byte) (j : Nat) :
    (blocksOfBytes bs)[j]? = bs[j]?.map (Block.mk · (if j + 1 = bs.length then 1 else 0) none) := by
  induction bs using blocksOfBytes.induct generalizing j with
  | case1 => rfl
  | case2 b => cases j <;> simp [blocksOfBytes]
  | case3 b c bs ih =>
    cases j with
    | zero => simp [blocksOfBytes]
    | succ j => rw [blocksOfBytes, List.getElem?_cons_succ, ih]; simp

theorem map_data_encodeFrame (f : Frame) : (encodeFrame f).map (·.data) = headerByte f :: f.payload :=
  map_data_blocksOfBytes _

/-- One header block and one per payload byte (R131). -/
theorem length_encodeFrame (f : Frame) : (encodeFrame f).length = 1 + f.payload.length := by
  rw [← List.length_map (·.data), map_data_encodeFrame, List.length_cons, Nat.add_comm]

/-- Block `j` of a frame (R131). -/
theorem getElem?_encodeFrame (f : Frame) {j : Nat} (hj : j ≤ f.payload.length) :
    (encodeFrame f)[j]? =
      some { data := byteOf f j, eom := if j = f.payload.length then 1 else 0, ack := none } := by
  rw [encodeFrame, getElem?_blocksOfBytes, getElem?_frameBytes f hj]
  simp

/-- `ENCODE` (R131). -/
theorem exec_encode (f : Frame) (s : State) :
    exec (.encode f) s = .next { s with result := .blocks (encodeFrame f) } := rfl

/-- Settles O24: block `j` carries byte `j`, and the last position is the payload's length. -/
theorem encodeGivesTheBlocks : Obligations.EncodeGivesTheBlocks := by
  intro f s _
  refine ⟨encodeFrame f, exec_encode f s, length_encodeFrame f, fun j hj => ?_⟩
  rw [length_encodeFrame] at hj ⊢
  rw [getElem?_encodeFrame f (by omega), Nat.add_sub_cancel_left]

/-! ## The tests of `DECODE` -/

/-- The tests count the EOM bits that are set (R132). -/
theorem eomCount_eq_countP (bs : List Block) : eomCount bs = bs.countP (fun b => b.eom = 1) :=
  List.countP_eq_length_filter.symm

theorem lastHasEom_iff (bs : List Block) : lastHasEom bs = true ↔ bs.getLast?.map (·.eom) = some 1 := by
  unfold lastHasEom
  cases bs.getLast? <;> simp

/-- No EOM bit is counted where every block has 0. -/
theorem eomCount_eq_zero_iff (bs : List Block) : eomCount bs = 0 ↔ ∀ b ∈ bs, b.eom = 0 := by
  have hbit : ∀ v : Bit, ¬v = 1 ↔ v = 0 := by decide
  rw [eomCount_eq_countP, List.countP_eq_zero]
  exact forall₂_congr fun b _ => by rw [decide_eq_true_iff, hbit]

/-- The second and the third test are passed when EOM is set on the last block only (R132). -/
theorem eomOnLastOnly_iff (init : List Block) (last : Block) :
    eomCount (init ++ [last]) = 1 ∧ lastHasEom (init ++ [last]) = true ↔ (∀ b ∈ init, b.eom = 0) ∧ last.eom = 1 := by
  have hlast : lastHasEom (init ++ [last]) = true ↔ last.eom = 1 := by simp [lastHasEom_iff]
  rw [hlast, and_congr_left_iff, ← eomCount_eq_zero_iff]
  intro h
  simp [eomCount_eq_countP, h]

section
variable {bs : List Block}

theorem decodeBlocks_noEom (h : eomCount bs = 0) : decodeBlocks bs = .truncated := if_pos h

theorem decodeBlocks_manyEoms (h : 1 < eomCount bs) : decodeBlocks bs = .invalidEom :=
  (if_neg (by omega)).trans (if_pos h)

theorem decodeBlocks_eomNotLast (h : eomCount bs = 1) (hl : lastHasEom bs = false) : decodeBlocks bs = .invalidEom := by
  simp [decodeBlocks, h, hl]

theorem decodeBlocks_tooLong (h : eomCount bs = 1) (hl : lastHasEom bs = true) (hn : 14 < bs.length - 1) :
    decodeBlocks bs = .invalidEom := by
  simp [decodeBlocks, h, hl, maxPayload, hn]

/-- Past the tests, the frame is the header's nibbles and the other blocks' bytes (R132). -/
theorem decodeBlocks_frame {h : Block} {rest : List Block} (hc : eomCount (h :: rest) = 1)
    (hl : lastHasEom (h :: rest) = true) (hn : rest.length ≤ 14) :
    decodeBlocks (h :: rest) =
      .frame
        { source := headerSource h.data, destination := headerDestination h.data, payload := rest.map (·.data) } := by
  simp [decodeBlocks, hc, hl, maxPayload, hn]

/-- `DECODE` gives a frame exactly when every test is passed, and then the blocks carry the frame's bytes (R132). -/
theorem decodeBlocks_eq_frame_iff (f : Frame) :
    decodeBlocks bs = .frame f ↔
      (eomCount bs = 1 ∧ lastHasEom bs = true) ∧ bs.length - 1 ≤ 14 ∧
        bs.map (·.data) = headerByte f :: f.payload := by
  obtain hc | hc | hc : eomCount bs = 0 ∨ 1 < eomCount bs ∨ eomCount bs = 1 := by omega
  · rw [decodeBlocks_noEom hc]
    exact iff_of_false nofun (by omega)
  · rw [decodeBlocks_manyEoms hc]
    exact iff_of_false nofun (by omega)
  cases hl : lastHasEom bs with
  | false =>
    rw [decodeBlocks_eomNotLast hc hl]
    exact iff_of_false nofun nofun
  | true =>
    by_cases hn : bs.length - 1 ≤ 14
    · cases bs with
      | nil => exact absurd hc (by decide)
      | cons h rest =>
        rw [decodeBlocks_frame hc hl hn, List.map_cons, List.cons_eq_cons, eq_headerByte_iff]
        cases f
        simp [hc, and_assoc, show rest.length ≤ 14 from hn]
    · rw [decodeBlocks_tooLong hc hl (by omega)]
      exact iff_of_false nofun (by omega)

end

/-- `DECODE` (R132). -/
theorem exec_decode (bs : List Block) (s : State) :
    exec (.decode bs) s = .next { s with result := .decoded (decodeBlocks bs) } := rfl

/-- Settles O25, test by test. -/
theorem decodeTestsInOrder : Obligations.DecodeTestsInOrder := by
  intro bs s
  dsimp only
  rw [← eomCount_eq_countP, ← lastHasEom_iff, exec_decode]
  refine ⟨fun hc => ?_, fun hc => ?_, fun hc hl => ?_, fun hc hl hn => ?_, ?_⟩
  · rw [decodeBlocks_noEom hc]
  · rw [decodeBlocks_manyEoms hc]
  · rw [decodeBlocks_eomNotLast hc (Bool.eq_false_iff.mpr hl)]
  · rw [decodeBlocks_tooLong hc hl hn]
  · rintro h rest rfl hc hl hn
    rw [decodeBlocks_frame hc hl hn]
    rfl

/-! ## The round trip -/

/-- What `ENCODE` gives has its EOM on the last block only (R131, R133). -/
theorem encodeFrame_passes (f : Frame) : eomCount (encodeFrame f) = 1 ∧ lastHasEom (encodeFrame f) = true := by
  obtain ⟨init, last, hbytes⟩ :=
    (List.eq_nil_or_concat' (headerByte f :: f.payload)).resolve_left (List.cons_ne_nil _ _)
  rw [encodeFrame, hbytes, blocksOfBytes_concat, eomOnLastOnly_iff]
  simp

/-- Blocks whose EOM is on the last one only are what their bytes encode to, but for the ACK outcomes (R133). -/
theorem blocksOfBytes_map_data {bs : List Block} (h : eomCount bs = 1 ∧ lastHasEom bs = true) :
    blocksOfBytes (bs.map (·.data)) = bs.map (fun b => { b with ack := none }) := by
  obtain rfl | ⟨init, last, rfl⟩ := List.eq_nil_or_concat' bs
  · rfl
  · obtain ⟨hinit, hlast⟩ := (eomOnLastOnly_iff init last).mp h
    rw [List.map_append, List.map_singleton, blocksOfBytes_concat, List.map_append, List.map_map, List.map_singleton,
      hlast]
    congr 1
    exact List.map_congr_left fun b hb => by rw [Function.comp_apply, hinit b hb]

/-- Settles O26: what is encoded passes the tests of `DECODE`, and blocks that pass them are encoded from their bytes. -/
theorem codecRoundTrip : Obligations.CodecRoundTrip := by
  refine ⟨fun f hf => (decodeBlocks_eq_frame_iff f).mpr ⟨encodeFrame_passes f, ?_, map_data_encodeFrame f⟩,
    fun bs f h => ?_⟩
  · rwa [length_encodeFrame, Nat.add_sub_cancel_left]
  · obtain ⟨hpasses, -, hdata⟩ := (decodeBlocks_eq_frame_iff f).mp h
    rw [encodeFrame, ← hdata, blocksOfBytes_map_data hpasses]

/-! ## The cells of the latched frame -/

/-- Inside the domain a cell is the data bit or the EOM bit of its block (R136). -/
theorem frameCell_eq (f : Frame) {i k : Nat} (hi : i ≤ f.payload.length) (hk : k ≤ 8) :
    frameCell f i k = some (cellOf f i k) := by
  simp only [frameCell, getElem?_encodeFrame f hi, blockCell, cellOf]
  split
  · rfl
  · rw [if_pos (by omega)]

/-- Outside the domain there is no cell (R136). -/
theorem frameCell_eq_none (f : Frame) {i k : Nat} (h : f.payload.length < i ∨ 8 < k) : frameCell f i k = none := by
  unfold frameCell
  split
  next b hb =>
    have hi : i < (encodeFrame f).length := (List.getElem?_eq_some_iff.mp hb).1
    rw [length_encodeFrame] at hi
    rw [blockCell, if_neg (by omega), if_neg (by omega)]
  next => rfl

/-- `TX_BIT` of a cell of the latched frame reads it and changes nothing else (R136). -/
theorem execTxBit_of_cell {i k : Nat} {s : State} {b : Bit} (h : latchedCell s.tx i k = some b) :
    execTxBit i k s = .next { s with result := .bit b } := by
  simp only [execTxBit, txBit, txBitDrawn, h, setResult]

/-- `TX_BIT` of no cell answers a free value, which is drawn (log 14). -/
theorem execTxBit_of_no_cell {i k : Nat} {s : State} (h : latchedCell s.tx i k = none) :
    execTxBit i k s =
      .next { s with
        env := { s.env with draws := s.env.draws + 1 }, result := .bit (Config.strayBit s.env.draws) } := by
  simp only [execTxBit, txBit, txBitDrawn, h, setResult, setEnv]

/-- Settles O27: in its domain the cell latched is the frame's. -/
theorem txBitOfTheLatchedFrame : Obligations.TxBitOfTheLatchedFrame := by
  intro f i k s hf hi hk
  refine execTxBit_of_cell ?_
  rw [latchedCell, hf]
  exact frameCell_eq f hi hk

/-- Settles O28: with no frame, or outside the latched one, there is no cell. -/
theorem txBitOutsideItsDomain : Obligations.TxBitOutsideItsDomain := by
  intro i k s h
  refine ⟨_, execTxBit_of_no_cell ?_⟩
  cases hf : s.tx.frame with
  | none => rw [latchedCell, hf]
  | some f =>
    rw [latchedCell, hf]
    exact frameCell_eq_none f (h f hf)

/-! ## The frame the receiver delivers -/

/-- A frame waiting for the bus arms the free time of its class anew at a rising edge (R155, R157). -/
theorem rearmWait_eq (s : State) : rearmWait s = waitRearmed s := by
  unfold rearmWait waitRearmed
  rw [armTx_eq]
  cases s.tx.ftClass <;> rfl

/-- A rising edge that reaches the receiver (R253). -/
theorem exec_eRise_of_listening {u : Nat} {s : State} (h : EdgeReady u s) (ha : txActive s = false) :
    exec (.eRise u) s = .next (waitRearmed (rxRise u (riseNoted u (edgeSeen u s)))) := by
  obtain ⟨⟨hc, hl⟩, ho⟩ := h
  have ha' : txActive (edgeSeen u s) = false := ha
  show execERise u s = _
  rw [execERise, admitted_eq s _ hc hl, if_pos ho, onRise, ha', ← rearmWait_eq]
  rfl

/-- The rising edge that ends an ACK cell completes the block: a driven cell is not classified, a watched one must be a bit
(R211, R214, R215). -/
theorem rxRise_of_ackCell {u : Nat} {s : State} (hp : s.rx.phase = .awaitRise)
    (h : s.rx.state = .driveAck ∨
      (s.rx.state = .skipAck ∧ classifyLow s.cfg (cellTime u s) ≠ .timingViolation)) :
    ∃ a, rxRise u s = rxBlockDone a s := by
  obtain hs | ⟨hs, hclass⟩ := h
  · exact ⟨0, by simp only [rxRise, hs, hp]⟩
  · cases hv : classifyLow s.cfg (cellTime u s) with
    | bitValue a => exact ⟨a, by simp only [rxRise, hs, hp, watchedRise, hv]⟩
    | startBit => exact absurd hv (classifyLow_ne_startBit _ _)
    | timingViolation => exact absurd hv hclass

/-- With its last block's EOM in, what the receiver holds makes a frame: the earlier blocks have no EOM and there are at most
14 of them, so no error arm of `DECODE` is reached (R137, R215, R218). -/
theorem RxInv.decodeBlocks_last {c : Config} {n e : Nat} {x : Rx} (h : RxInv c n e x) (hs : eomSeen x = true)
    (heom : x.eom = 1) :
    ∃ header payload, x.blocks.map (·.data) ++ [x.shift] = header :: payload ∧ payload.length ≤ 14 ∧
      ∀ a, decodeBlocks (x.blocks ++ [completedBlock a x]) =
        .frame { source := headerSource header, destination := headerDestination header, payload := payload } := by
  obtain ⟨header, payload, hbytes⟩ := List.exists_cons_of_ne_nil
    (List.append_ne_nil_of_right_ne_nil (x.blocks.map (·.data)) (List.cons_ne_nil x.shift []))
  obtain ⟨hi, -⟩ := rxLegal_eomSeen h.legalOk hs
  have hcount : x.blocks.length ≤ 14 := (h.blocksSoFar (inBlock_of_eomSeen hs)).trans_le hi
  have hlength : payload.length = x.blocks.length := by simpa using (congrArg List.length hbytes).symm
  refine ⟨header, payload, hbytes, hlength.trans_le hcount, fun a => (decodeBlocks_eq_frame_iff _).mpr ⟨?_, ?_, ?_⟩⟩
  · exact (eomOnLastOnly_iff _ _).mpr ⟨h.noEomYet, heom⟩
  · simpa using hcount
  · rw [← (eq_headerByte_iff header _).mpr ⟨rfl, rfl⟩, ← hbytes, List.map_append]
    rfl

/-- Settles O56: the edge completes the block, and the blocks then held make a frame. -/
theorem lastBlockDeliversTheFrame : Obligations.LastBlockDeliversTheFrame := by
  rintro u fall st s hinv ⟨hready, ha, rfl, hp⟩ hfall heom hcell
  have hseen : eomSeen s.rx = true := eomSeen_iff.mpr (hcell.imp_right And.left)
  obtain ⟨header, payload, hbytes, hlength, hframe⟩ := hinv.rxOk.decodeBlocks_last hseen heom
  refine ⟨header, payload, hbytes, hlength, ?_⟩
  have htime : cellTime u (riseNoted u (edgeSeen u s)) = u - fall := by
    show u - s.rx.fall.getD u = _
    rw [hfall, Option.getD_some]
  obtain ⟨a, hrise⟩ := rxRise_of_ackCell (u := u) (s := riseNoted u (edgeSeen u s)) hp (by rw [htime]; exact hcell)
  rw [exec_eRise_of_listening hready ha, hrise,
    rxBlockDone_frame a (riseNoted u (edgeSeen u s)) _ heom (hframe a)]
  rfl

end Sys2Proof.Machine
end

section
/-! PROOFS. Requests of the application (O34 to O36), and the wait for the bus (O37). -/

namespace Sys2Proof.Machine

/-! ## An event that is admitted runs -/

section
variable {s : State}

theorem exec_aSend_eq (h : Ready s) (f : Frame) : exec (.aSend f) s = .next (onSend f s) := admitted_eq s _ h.1 h.2

theorem exec_aCancel_eq (h : Ready s) (p : Nat) : exec (.aCancel p) s = .next (onCancel p s) :=
  admitted_eq s _ h.1 h.2

theorem exec_eFall_eq {u : Nat} (h : EdgeReady u s) : exec (.eFall u) s = .next (onFall u (edgeSeen u s)) := by
  obtain ⟨⟨hc, hl⟩, ho⟩ := h
  exact (admitted_eq s _ hc hl).trans (if_pos ho)

theorem exec_eRise_eq {u : Nat} (h : EdgeReady u s) : exec (.eRise u) s = .next (onRise u (edgeSeen u s)) := by
  obtain ⟨⟨hc, hl⟩, ho⟩ := h
  exact (admitted_eq s _ hc hl).trans (if_pos ho)

/-- An expiry that is the transmitter's runs the rule of its row of the timer table (R254, R179). -/
theorem exec_eTimer_of_row {state : TxState} {phase : TxPhase} {n : Nat} {t : State} (h : TxTimerIn state phase n s)
    (row : s.tx.state = state → s.tx.phase = phase → txTimer s = t) : exec (.eTimer n) s = .next t := by
  obtain ⟨⟨hc, hl⟩, hn, hs, hp⟩ := h
  have own : onTimer n s = txTimer s := if_pos hn
  rw [← row hs hp, ← own]
  exact admitted_eq s _ hc hl

/-! ## Requests -/

/-- `A_SEND` refused (R151, R181). -/
theorem onSend_refused {f : Frame} (h : s.tx.state ≠ .idle ∨ maxPayload < f.payload.length) :
    onSend f s = { s with effects := s.effects ++ [.log, .reply .rejected] } := by
  rw [onSend, if_pos h, raise, emit, emit, List.append_assoc]
  rfl

/-- `A_SEND` accepted (R151): the registers are written, the reply is sent, and the wait is entered. -/
theorem onSend_accepted {f : Frame} (hidle : s.tx.state = .idle) (hfits : f.payload.length ≤ maxPayload) :
    onSend f s =
      enterWait { s with
        tx := sendRegisters f s.bus.lastInit s.tx, effects := s.effects ++ [.reply (.accepted s.tx.seq)] } := by
  have accepted : ¬(s.tx.state ≠ .idle ∨ maxPayload < f.payload.length) := by simp [hidle, hfits]
  rw [onSend, if_neg accepted]
  rfl

/-- The free time a new request waits for, by whose frame was last on the bus (R153, R155). -/
theorem freeTime_of_request (c : Config) (last : Initiator) :
    freeTime c (if last = .self then .own else .new) = if last = .self then c.ftOwn else c.ftNew :=
  apply_ite (freeTime c) _ _ _

/-- Settles O34: either cause refuses, and a refusal is two effects. -/
theorem sendRefused : Obligations.SendRefused := by
  intro f s h hrefused
  rw [exec_aSend_eq h, onSend_refused hrefused]

/-- Settles O35: the registers written, then the entry to the wait on a low or on a high line. -/
theorem sendAccepted : Obligations.SendAccepted := by
  intro f s h hidle hfits
  dsimp only
  rw [exec_aSend_eq h, onSend_accepted hidle hfits]
  refine ⟨fun hlow => ?_, fun hhigh => ?_⟩
  · rw [enterWait_low _ (by exact hlow), List.append_assoc]
    rfl
  · rw [enterWait_high _ (by exact hhigh), List.append_assoc, ← freeTime_of_request]
    rfl

/-- Settles O36: the test of R152 decides. -/
theorem cancelRequest : Obligations.CancelRequest := by
  intro p s h
  rw [exec_aCancel_eq h, onCancel]
  refine ⟨fun hwaits => ?_, fun hother => ?_⟩
  · rw [if_pos hwaits]
    rfl
  · rw [if_neg hother, raise, emit, emit, List.append_assoc]
    rfl

/-! ## The wait for the bus -/

/-- The free-time timer expires on a low line (R158). -/
theorem waitTimer_low (h : lineLevel s = .low) :
    waitTimer s =
      { s with
        tx := { s.tx with timer := none }, env := levelAnswered s.env, effects := s.effects ++ [.lineRead .low] } := by
  rw [waitTimer, if_pos h, lineRead_eq, h]
  rfl

/-- The free-time timer expires on a high line: the clock is read too (R158). -/
theorem waitTimer_high (h : lineLevel s = .high) :
    waitTimer s =
      if s.bus.idleSince + freeTime s.cfg s.tx.ftClass ≤ timeAnswer (levelAnswered s.env) then
        txStart (nowRead (lineRead s))
      else
        armTx (s.bus.idleSince + freeTime s.cfg s.tx.ftClass - timeAnswer (levelAnswered s.env))
          (nowRead (lineRead s)) := by
  rw [waitTimer, if_neg (by simp [h])]
  rfl

/-- `TxStart()`: a reception in progress is dropped, and an acknowledge held is let go first (R159, R205). -/
theorem txStart_dropping (s : State) :
    txStart s =
      { s with
        tx :=
          { s.tx with
            attempts := s.tx.attempts + 1, acks := [], state := .sendStartBit, phase := .low,
            timer := some (s.env.armed + 1) },
        rx := if s.rx.state = .idle then s.rx else Rx.atReset,
        bus := { s.bus with drive := .low },
        env := { s.env with armed := s.env.armed + 1 },
        effects :=
          s.effects ++ (if s.rx.state = .driveAck ∧ s.rx.phase = .hold then [.lineWrite .high] else []) ++
            [.lineWrite .low, .timerArm s.cfg.startLow.nom (s.env.armed + 1)] } := by
  by_cases hidle : s.rx.state = .idle
  · simp [txStart_eq s hidle, hidle]
  · rw [txStart_aborts s hidle, txStart_eq _ (by rw [rxAbort_rx]; rfl), if_neg hidle]
    by_cases hheld : s.rx.state = .driveAck ∧ s.rx.phase = .hold
    · rw [rxAbort_holding s hheld, if_pos hheld]
    · rw [rxAbort_silent s hheld, if_neg hheld, List.append_nil]

/-- Settles O37: the line is read, then the clock, and the attempt begins or the rest of the free time is armed. -/
theorem freeTimeExpires : Obligations.FreeTimeExpires := by
  intro n s h
  have expired : exec (.eTimer n) s = .next (waitTimer s) := exec_eTimer_of_row h fun hs _ => by simp only [txTimer, hs]
  dsimp only
  rw [expired]
  refine ⟨fun hlow => ?_, fun hhigh hover => ?_, fun hhigh hearly => ?_⟩
  · rw [waitTimer_low hlow]
  · rw [waitTimer_high hhigh, if_pos hover, txStart_dropping]
    simp [nowRead_eq, lineRead_eq, hhigh]
  · rw [waitTimer_high hhigh, if_neg (Nat.not_le.mpr hearly), armTx_eq]
    simp [nowRead_eq, lineRead_eq, hhigh]

end

end Sys2Proof.Machine
end

section
/-! PROOFS. What the transmitter's timers do inside an attempt: the start bit (O38, O39), the bits of a block (O40, O41)
and the sampling of the ACK cell (O42). -/

namespace Sys2Proof.Machine

section
variable {s : State}

/-! ## The cell being sent -/

/-- A block index is legal when it names the header or a payload byte (R39, R150). -/
theorem lt_blockCount_iff {x : Tx} {f : Frame} (hf : x.frame = some f) :
    x.i < blockCount x ↔ x.i ≤ f.payload.length := by
  simp only [blockCount, hf, frameBlockCount]
  omega

/-- Inside the domain of R136 the engine sends the cell of the latched frame. -/
theorem txBit_eq {f : Frame} {i k : Nat} (hf : s.tx.frame = some f) (hi : i ≤ f.payload.length) (hk : k ≤ 8) :
    txBit i k s = cellOf f i k := by
  simp only [txBit, latchedCell, hf, frameCell_eq f hi hk]

/-- The low phase a bit is sent with (R112). -/
theorem bitLow_def (c : Config) (b : Bit) : (if b = 0 then c.bit0Low.nom else c.bit1Low.nom) = bitLow c b := rfl

/-- `BeginBit()` of a cell of the latched frame: its low phase is that of its value (R160). -/
theorem beginBit_of_frame {f : Frame} (hf : s.tx.frame = some f) (hi : s.tx.i ≤ f.payload.length) (hk : s.tx.k ≤ 8) :
    beginBit s =
      { s with
        tx := { s.tx with phase := .low, timer := some (s.env.armed + 1) },
        bus := { s.bus with drive := .low },
        env := { s.env with armed := s.env.armed + 1 },
        effects :=
          s.effects ++ [.lineWrite .low,
            .timerArm (bitLow s.cfg (cellOf f s.tx.i s.tx.k)) (s.env.armed + 1)] } := by
  rw [beginBit_eq, txBit_eq hf hi hk]

/-! ## The check of the line -/

/-- `LineRead` that answers `l` (R60). -/
theorem lineRead_of_level {l : Level} (h : lineLevel s = l) :
    lineRead s = { s with env := levelAnswered s.env, effects := s.effects ++ [.lineRead l] } := by
  rw [lineRead_eq, h]

/-- A low line where the engine expects a high one loses arbitration (R165). -/
theorem releasedCheck_lost (go : State → State) (h : lineLevel s = .low) :
    releasedCheck go s =
      arbLoss { s with env := levelAnswered s.env, effects := s.effects ++ [.lineRead .low] } := by
  rw [releasedCheck_low go s h, lineRead_of_level h]

/-- A high line lets the transmission go on (R165). -/
theorem releasedCheck_passed (go : State → State) (h : lineLevel s = .high) :
    releasedCheck go s = go { s with env := levelAnswered s.env, effects := s.effects ++ [.lineRead .high] } := by
  rw [releasedCheck_high go s h, lineRead_of_level h]

theorem windowCheck_lost (go : State → State) (hin : InWindow s) (h : lineLevel s = .low) :
    windowCheck go s = arbLoss { s with env := levelAnswered s.env, effects := s.effects ++ [.lineRead .low] } :=
  (windowCheck_inside go s hin).trans (releasedCheck_lost go h)

theorem windowCheck_passed (go : State → State) (hin : InWindow s) (h : lineLevel s = .high) :
    windowCheck go s = go { s with env := levelAnswered s.env, effects := s.effects ++ [.lineRead .high] } :=
  (windowCheck_inside go s hin).trans (releasedCheck_passed go h)

/-- Once the engine has let the line go, `LineRead` sees the other devices alone (R61, R62). -/
theorem lineLevel_lineWrite_high (s : State) : lineLevel (lineWrite .high s) = othersLevel s.env :=
  lineLevel_of_released _ rfl

/-! ## The rows of the timer table (R179) -/

section
variable {n : Nat}

theorem exec_startLow (h : TxTimerIn .sendStartBit .low n s) : exec (.eTimer n) s = .next (startLowTimer s) :=
  exec_eTimer_of_row h fun hs hp => by simp only [txTimer, hs, hp]

theorem exec_startHigh (h : TxTimerIn .sendStartBit .high n s) : exec (.eTimer n) s = .next (startHighTimer s) :=
  exec_eTimer_of_row h fun hs hp => by simp only [txTimer, hs, hp]

theorem exec_bitLow (h : TxTimerIn .sendBlock .low n s) : exec (.eTimer n) s = .next (bitLowTimer s) :=
  exec_eTimer_of_row h fun hs hp => by simp only [txTimer, hs, hp]

theorem exec_bitHigh (h : TxTimerIn .sendBlock .high n s) : exec (.eTimer n) s = .next (bitHighTimer s) :=
  exec_eTimer_of_row h fun hs hp => by simp only [txTimer, hs, hp]

theorem exec_ackLow (h : TxTimerIn .sampleAck .low n s) : exec (.eTimer n) s = .next (ackLowTimer s) :=
  exec_eTimer_of_row h fun hs hp => by simp only [txTimer, hs, hp]

theorem exec_ackSample (h : TxTimerIn .sampleAck .preSample n s) :
    exec (.eTimer n) s = .next (ackSampleTimer s) :=
  exec_eTimer_of_row h fun hs hp => by simp only [txTimer, hs, hp]

theorem exec_ackEnd (h : TxTimerIn .sampleAck .postSample n s) : exec (.eTimer n) s = .next (ackEndTimer s) :=
  exec_eTimer_of_row h fun hs hp => by simp only [txTimer, hs, hp]

/-- The block and the cell being sent are in the domain of R136 (R39). -/
theorem cell_in_frame {f : Frame} {phase : TxPhase} (h : TxTimerIn .sendBlock phase n s) (hf : s.tx.frame = some f) :
    s.tx.i ≤ f.payload.length ∧ s.tx.k ≤ 8 := by
  obtain ⟨⟨-, hl⟩, -, hs, -⟩ := h
  obtain ⟨hi, hk, -⟩ := (txLegal_block_iff hs).mp ((Bool.and_eq_true _ _).mp hl).1
  exact ⟨(lt_blockCount_iff hf).mp hi, hk⟩

end

/-! ## The start bit -/

/-- Settles O38: the line is let go and checked (check point a of R165). -/
theorem startLowPhaseEnds : Obligations.StartLowPhaseEnds := by
  intro n s h
  rw [exec_startLow h, startLowTimer]
  refine ⟨fun hlow => ?_, fun hhigh => ?_⟩
  · rw [releasedCheck_lost _ ((lineLevel_lineWrite_high s).trans hlow)]
    simp [lineWrite_eq]
  · rw [releasedCheck_passed _ ((lineLevel_lineWrite_high s).trans hhigh)]
    simp [lineWrite_eq, armTx_eq, setTx]

/-- Settles O39: the line is checked, and the first cell of the header begins. -/
theorem startBitEnds : Obligations.StartBitEnds := by
  intro n f s h hf
  rw [exec_startHigh h, startHighTimer, bitLow_def]
  refine ⟨fun hlow => ?_, fun hhigh => ?_⟩
  · rw [releasedCheck_lost _ hlow]
  · rw [releasedCheck_passed _ hhigh, beginBit_of_frame (by exact hf) (Nat.zero_le _) (Nat.zero_le _)]
    simp [setTx]

/-! ## The bits of a block -/

/-- The rest of a bit's period is armed after its low phase (R163). -/
theorem armRest_eq {f : Frame} (hf : s.tx.frame = some f) (hi : s.tx.i ≤ f.payload.length) (hk : s.tx.k ≤ 8) :
    armTx (s.cfg.bitPeriod.nom - bitLow s.cfg (txBit s.tx.i s.tx.k s)) (setTx { s.tx with phase := .high } s) =
      { s with
        tx := { s.tx with phase := .high, timer := some (s.env.armed + 1) },
        env := { s.env with armed := s.env.armed + 1 },
        effects :=
          s.effects ++
            [.timerArm (s.cfg.bitPeriod.nom - bitLow s.cfg (cellOf f s.tx.i s.tx.k)) (s.env.armed + 1)] } := by
  rw [armTx_eq, txBit_eq hf hi hk]
  rfl

/-- Settles O40: the line is let go, and checked inside the window only (R165). -/
theorem bitLowPhaseEnds : Obligations.BitLowPhaseEnds := by
  intro n f s h hf
  obtain ⟨hi, hk⟩ := cell_in_frame h hf
  dsimp only
  rw [exec_bitLow h, bitLowTimer, bitLow_def]
  refine ⟨fun hin hlow => ?_, fun hin hhigh => ?_, fun hout => ?_⟩
  · rw [windowCheck_lost _ (by exact hin) ((lineLevel_lineWrite_high s).trans hlow)]
    simp [lineWrite_eq]
  · rw [windowCheck_passed _ (by exact hin) ((lineLevel_lineWrite_high s).trans hhigh),
      armRest_eq (by exact hf) (by exact hi) (by exact hk)]
    simp [lineWrite_eq]
  · rw [windowCheck_outside _ _ (by exact hout), armRest_eq (by exact hf) (by exact hi) (by exact hk)]
    simp [lineWrite_eq]

/-- Settles O41: inside the window the line is checked; then the next cell begins. -/
theorem bitCellEnds : Obligations.BitCellEnds := by
  intro n f s h hf
  obtain ⟨hi, -⟩ := cell_in_frame h hf
  rw [exec_bitHigh h, bitHighTimer, bitLow_def]
  refine ⟨fun hin hlow => ?_, fun v reads hpassed => ?_⟩
  · rw [windowCheck_lost _ hin hlow]
  · have passed : ∀ go : State → State,
        windowCheck go s = go { s with env := v, effects := s.effects ++ reads } ∧ v.armed = s.env.armed := by
      intro go
      obtain ⟨hin, hhigh, rfl, rfl⟩ | ⟨hout, rfl, rfl⟩ := hpassed
      · exact ⟨by rw [windowCheck_passed _ hin hhigh], levelAnswered_armed _⟩
      · exact ⟨by rw [windowCheck_outside _ _ hout, List.append_nil], rfl⟩
    obtain ⟨hgo, harmed⟩ := passed _
    rw [hgo]
    refine ⟨fun hmore => ?_, fun hlast => ?_⟩
    · rw [if_pos hmore, beginBit_of_frame (by exact hf) (by exact hi) (by exact hmore)]
      simp [setTx, harmed]
    · rw [if_neg (by simp [hlast]), beginAck_eq]
      simp [harmed]

/-! ## The ACK cell -/

/-- Settles O42: the line is let go without a check, and read once at the sample point. -/
theorem ackCellIsSampled : Obligations.AckCellIsSampled := by
  refine ⟨fun n s h => ?_, fun n l s h hlevel => ?_⟩
  · rw [exec_ackLow h, ackLowTimer, armTx_eq]
    simp [lineWrite_eq, setTx]
  · rw [exec_ackSample h, ackSampleTimer, armTx_eq, lineRead_of_level hlevel, hlevel]
    cases l <;> simp [setTx, ackBitOf]

end

end Sys2Proof.Machine
end

section
/-! PROOFS. How an attempt ends: the verdict on a block (O43, O44, O48), lost arbitration (O45), and what an edge does
while the transmitter is active (O46). -/

namespace Sys2Proof.Machine

section
variable {s : State}

/-! ## An attempt fails -/

section
variable (why : FailReason) (last : Initiator)

/-- The last attempt allowed fails: the transaction is over (R173, R174, R176). -/
theorem attemptFailed_exhausted {p : Nat} (hp : s.tx.handle = some p) (h : s.cfg.maxAttempts ≤ s.tx.attempts) :
    attemptFailed why last s =
      { s with
        tx := { Tx.atReset with seq := s.tx.seq }, bus := { s.bus with lastInit := last },
        effects := s.effects ++ [.complete p (.failed why)] } := by
  rw [attemptFailed, retry_exhausted _ _ (by exact h), txFailed_eq _ _ p (by exact hp)]
  rfl

/-- An attempt fails with another one left, on a low line: the wait begins without a timer (R173, R154). -/
theorem attemptFailed_again_low (h : s.tx.attempts < s.cfg.maxAttempts) (hlow : lineLevel s = .low) :
    attemptFailed why last s =
      { s with
        tx :=
          { s.tx with
            state := .waitFreeTime, i := 0, k := 0, phase := .low, acks := [], ftClass := .retry, err := some why,
            timer := none },
        bus := { s.bus with lastInit := last }, env := levelAnswered s.env,
        effects := s.effects ++ [.lineRead .low] } := by
  rw [attemptFailed, retry_again _ _ (by exact h), enterWait_low _ (by exact hlow)]
  rfl

/-- An attempt fails with another one left, on a high line: the rest of the free time is armed (R173, R154, R155). -/
theorem attemptFailed_again_high (h : s.tx.attempts < s.cfg.maxAttempts) (hhigh : lineLevel s = .high) :
    attemptFailed why last s =
      { s with
        tx :=
          { s.tx with
            state := .waitFreeTime, i := 0, k := 0, phase := .low, acks := [], ftClass := .retry, err := some why,
            timer := some (s.env.armed + 1) },
        bus := { s.bus with lastInit := last },
        env :=
          { timeAnswered (timeAnswer (levelAnswered s.env)) (levelAnswered s.env) with armed := s.env.armed + 1 },
        effects :=
          s.effects ++ [.lineRead .high, .now (timeAnswer (levelAnswered s.env)),
            .timerArm (s.bus.idleSince + s.cfg.ftRetry - timeAnswer (levelAnswered s.env)) (s.env.armed + 1)] } := by
  rw [attemptFailed, retry_again _ _ (by exact h), enterWait_high _ (by exact hhigh)]
  rfl

end

/-! ## Arbitration is lost -/

/-- `ArbLoss()` with the line still pulled lets it go first (R175). -/
theorem arbLoss_pulling (h : s.bus.drive = .low) :
    arbLoss s = attemptFailed .arbitration .other (lineWrite .high s) := by
  rw [arbLoss, if_pos h]

theorem arbLoss_released (h : s.bus.drive = .high) : arbLoss s = attemptFailed .arbitration .other s := by
  rw [arbLoss, if_neg (by simp [h])]

/-- Settles O45: after the line is let go, an attempt fails. -/
theorem arbitrationLost : Obligations.ArbitrationLost := by
  refine ⟨fun s hpulled => ?_, fun p s hreleased hp => ?_⟩
  · rw [arbLoss_pulling hpulled, arbLoss_released (s := { s with bus := _, effects := _ }) rfl, lineWrite_eq]
  · have hlevel := lineLevel_of_released s hreleased
    rw [arbLoss_released hreleased]
    exact ⟨attemptFailed_exhausted _ _ hp, fun hmore hlow => attemptFailed_again_low _ _ hmore (hlevel.trans hlow),
      fun hmore hhigh => attemptFailed_again_high _ _ hmore (hlevel.trans hhigh)⟩

/-! ## The verdict on a block -/

/-- The verdict waits for the end of the ACK cell (R169, R171). -/
theorem exec_verdict {n : Nat} {f : Frame} {a : Bit} (h : TxTimerIn .sampleAck .postSample n s)
    (hf : s.tx.frame = some f) (ha : s.tx.acks.getLast? = some a) :
    exec (.eTimer n) s = .next (ackVerdict f a s) := by
  rw [exec_ackEnd h]
  simp only [ackEndTimer, hf, ha]

/-- An acknowledged block is followed by the next one, or is the last (R171). -/
theorem ackVerdict_acked {f : Frame} {a : Bit} (h : f.destination = 15 ∨ a = 0) :
    ackVerdict f a s =
      if s.tx.i = f.payload.length then txDone s
      else beginBit (setTx { s.tx with i := s.tx.i + 1, k := 0, state := .sendBlock } s) := by
  rw [ackVerdict, (acked_iff _ _).mpr h, frameBlockCount, Nat.add_sub_cancel_left]
  rfl

/-- A unicast block whose ACK bit is 1 fails the attempt (R171). -/
theorem ackVerdict_unacked {f : Frame} (h : f.destination ≠ 15) :
    ackVerdict f 1 s = attemptFailed .noAcknowledge .self s := by
  have unacked : acked f.destination 1 = false :=
    Bool.eq_false_iff.mpr fun ha => ((acked_iff _ _).mp ha).elim h (by decide)
  rw [ackVerdict, unacked]
  rfl

/-- Settles O43: the next block's first cell, or `TxDone()`. -/
theorem acknowledgedBlock : Obligations.AcknowledgedBlock := by
  intro n f p a s h hf hp ha hacked
  rw [exec_verdict h hf ha, ackVerdict_acked hacked]
  refine ⟨fun hmore => ?_, fun hlast => ?_⟩
  · rw [if_neg hmore.ne, beginBit_of_frame (by exact hf) (by exact hmore) (Nat.zero_le _)]
    rfl
  · rw [if_pos hlast, txDone_eq s p hp]
    rfl

/-- Settles O44: the attempt fails. -/
theorem unacknowledgedUnicast : Obligations.UnacknowledgedUnicast := by
  intro n f p s h hf hp ha hunicast
  rw [exec_verdict h hf ha, ackVerdict_unacked hunicast]
  exact ⟨fun hlast => congrArg _ (attemptFailed_exhausted _ _ hp hlast),
    fun hmore hlow => congrArg _ (attemptFailed_again_low _ _ hmore hlow),
    fun hmore hhigh => congrArg _ (attemptFailed_again_high _ _ hmore hhigh)⟩

/-- After the sample point there is a sample, and the block is one of the frame's (R39). -/
theorem sampled_of_postSample {n : Nat} {f : Frame} (h : TxTimerIn .sampleAck .postSample n s)
    (hf : s.tx.frame = some f) :
    s.tx.i ≤ f.payload.length ∧ (∃ p, s.tx.handle = some p) ∧ ∃ a, s.tx.acks.getLast? = some a := by
  obtain ⟨⟨-, hl⟩, -, hs, hp⟩ := h
  obtain ⟨hi, -, -, -, hh, hacks⟩ := (txLegal_ack_iff hs).mp ((Bool.and_eq_true _ _).mp hl).1
  exact ⟨(lt_blockCount_iff hf).mp hi, Option.ne_none_iff_exists'.mp hh,
    _, List.getLast?_eq_some_getLast (hacks hp)⟩

/-- Settles O48: a broadcast's block counts as acknowledged whatever was sampled (O43). -/
theorem broadcastIsNeverUnacknowledged : Obligations.BroadcastIsNeverUnacknowledged := by
  intro n f s t h hf hbroadcast hexec
  obtain ⟨hi, ⟨p, hp⟩, a, ha⟩ := sampled_of_postSample h hf
  obtain ⟨next, last⟩ := acknowledgedBlock n f p a s h hf hp ha (.inl hbroadcast)
  obtain hmore | hlast := hi.lt_or_eq
  · obtain rfl := eq_of_next ((next hmore).symm.trans hexec)
    exact .inl ⟨rfl, rfl, rfl, rfl⟩
  · obtain rfl := eq_of_next ((last hlast).symm.trans hexec)
    exact .inr ⟨rfl, p, rfl⟩

/-! ## Edges inside an attempt -/

/-- A falling edge with the line let go loses arbitration inside the window (check point b of R165). -/
theorem txFall_inside (hreleased : s.bus.drive = .high) (hin : InWindow s) : txFall s = arbLoss s := by
  rw [txFall, if_neg (by simp [hreleased]), if_pos ((inArbWindow_iff s).mpr hin), raise]

theorem txFall_outside (hreleased : s.bus.drive = .high) (hout : ¬InWindow s) :
    txFall s = { s with effects := s.effects ++ [.log] } := by
  rw [txFall, if_neg (by simp [hreleased]), if_neg (mt (inArbWindow_iff s).mp hout), raise, emit]

/-- Settles O46: an active transmitter takes the edge, and the receiver does not see it. -/
theorem edgesWhileTransmitting : Obligations.EdgesWhileTransmitting := by
  intro u s h ha
  have fall : onFall u (edgeSeen u s) = txFall (edgeSeen u s) := if_pos ha
  have rise : onRise u (edgeSeen u s) = riseNoted u (edgeSeen u s) := if_pos ha
  dsimp only
  rw [exec_eFall_eq h, exec_eRise_eq h, fall, rise]
  refine ⟨fun hpulled => ?_, fun hreleased hin => ?_, fun hreleased hout => ?_, rfl⟩
  · have echo : txFall (edgeSeen u s) = edgeSeen u s := if_pos hpulled
    rw [echo]
    rfl
  · rw [txFall_inside (by exact hreleased) (by exact hin)]
    rfl
  · rw [txFall_outside (by exact hreleased) (by exact hout)]
    rfl

end

end Sys2Proof.Machine
end

section
/-! PROOFS. The edges while a frame waits for the bus (O47): the receiver's rules neither read nor write the transmit
registers. -/

namespace Sys2Proof.Machine

/-! ## The receiver beside other transmit registers -/

/-- A change of the state that neither reads nor writes the transmit registers. -/
def IgnoresTx (go : State → State) : Prop := ∀ (x : Tx) (s : State), go (setTx x s) = setTx x (go s)

theorem IgnoresTx.tx_eq {go : State → State} (h : IgnoresTx go) (s : State) : (go s).tx = s.tx := by
  have kept := congrArg State.tx (h s.tx s)
  exact kept

/-- One of two changes is made, by a test that does not read the transmit registers. -/
theorem IgnoresTx.ite {test : State → Prop} [DecidablePred test] {yes no : State → State}
    (htest : ∀ (x : Tx) (s : State), test (setTx x s) ↔ test s) (hyes : IgnoresTx yes) (hno : IgnoresTx no) :
    IgnoresTx fun s => if test s then yes s else no s := fun x s =>
  (if_congr (htest x s) (hyes x s) (hno x s)).trans (apply_ite (setTx x) _ _ _).symm

theorem rxAbort_ignoresTx : IgnoresTx rxAbort :=
  .ite (test := fun s => s.rx.state = .driveAck ∧ s.rx.phase = .hold) (fun _ _ => .rfl) (fun _ _ => rfl) fun _ _ => rfl

theorem raiseAndReuse_ignoresTx (u : Nat) : IgnoresTx (raiseAndReuse .timingViolation u) := fun x s =>
  congrArg (rxIdleFall u) (rxAbort_ignoresTx x s)

theorem candidateFall_ignoresTx (u : Nat) : IgnoresTx (candidateFall u) :=
  .ite (test := fun s => classifyPulse s.cfg (s.rx.low.getD 0) (cellTime u s) = .startBit) (fun _ _ => .rfl)
    (fun _ _ => rfl) (raiseAndReuse_ignoresTx u)

theorem cellFall_ignoresTx (u : Nat) : IgnoresTx (cellFall u) :=
  .ite (test := fun s => checkPeriod s.cfg (cellTime u s) = true) (fun _ _ => .rfl)
    (fun _ _ => rfl) (raiseAndReuse_ignoresTx u)

theorem driveFall_ignoresTx (u : Nat) : IgnoresTx (driveFall u) :=
  .ite (test := fun s => checkPeriod s.cfg (cellTime u s) = true) (fun _ _ => .rfl)
    (fun _ _ => rfl) (raiseAndReuse_ignoresTx u)

/-- The receiver's falling edge (R222). -/
theorem rxFall_ignoresTx (u : Nat) : IgnoresTx (rxFall u) := by
  intro x s
  simp only [rxFall, setTx_rx]
  split
  · rfl
  · exact candidateFall_ignoresTx u x s
  · exact cellFall_ignoresTx u x s
  · exact cellFall_ignoresTx u x s
  · exact driveFall_ignoresTx u x s
  · rfl
  · rfl

/-- The EOM bit: the frame is too long, or the hook is not asked, or it is (R208, R209, R218). -/
theorem eomBit_ignoresTx (b : Bit) : IgnoresTx (eomBit b) := by
  intro x s
  by_cases h : s.rx.i = 14 ∧ b = 0
  · unfold eomBit
    exact (if_pos h).trans ((rxAbort_ignoresTx x _).trans (congrArg (setTx x) (if_pos h).symm))
  · cases hd : hookConcerned s.cfg (frameDest s.rx) with
    | false =>
      rw [eomBit_unconcerned b s h hd, eomBit_unconcerned b (setTx x s) h hd]
      rfl
    | true =>
      rw [eomBit_concerned b s h hd, eomBit_concerned b (setTx x s) h hd]
      rfl

theorem rxBlockDone_ignoresTx (a : Bit) : IgnoresTx (rxBlockDone a) := by
  refine .ite (test := fun s => s.rx.eom = 1) (fun _ _ => .rfl) (fun x s => ?_) (fun x s => rfl)
  simp only [setTx_rx, setRx_rx]
  split
  · rfl
  · exact rxAbort_ignoresTx x _
  · exact rxAbort_ignoresTx x _

theorem cellRise_ignoresTx (u : Nat) : IgnoresTx (cellRise u) := by
  intro x s
  have htime : cellTime u (setTx x s) = cellTime u s := rfl
  simp only [cellRise, setTx_cfg, setTx_rx, htime]
  split
  next b _ =>
    exact IgnoresTx.ite (test := fun s => s.rx.k < 8) (fun _ _ => .rfl) (fun _ _ => rfl) (eomBit_ignoresTx b) x s
  · exact rxAbort_ignoresTx x s
  · exact rxAbort_ignoresTx x s

theorem watchedRise_ignoresTx (u : Nat) : IgnoresTx (watchedRise u) := by
  intro x s
  have htime : cellTime u (setTx x s) = cellTime u s := rfl
  simp only [watchedRise, setTx_cfg, htime]
  split
  · exact rxBlockDone_ignoresTx _ x s
  · exact rxAbort_ignoresTx x s
  · exact rxAbort_ignoresTx x s

/-- The receiver's rising edge (R222). -/
theorem rxRise_ignoresTx (u : Nat) : IgnoresTx (rxRise u) := by
  intro x s
  simp only [rxRise, setTx_rx]
  split
  · rfl
  · rfl
  · exact cellRise_ignoresTx u x s
  · exact watchedRise_ignoresTx u x s
  · exact rxBlockDone_ignoresTx 0 x s
  · rfl
  · rfl

/-! ## The edges -/

section
variable {u : Nat} {s : State}

/-- A falling edge while the transmitter is not active: a wait is dropped, and the receiver takes the edge (R252,
R156). -/
theorem exec_eFall_of_listening (h : EdgeReady u s) (ha : txActive s = false) :
    exec (.eFall u) s = .next (rxFall u (dropWait (edgeSeen u s))) := by
  have fall : onFall u (edgeSeen u s) = rxFall u (dropWait (edgeSeen u s)) := if_neg (Bool.eq_false_iff.mp ha)
  rw [exec_eFall_eq h, fall]

/-- A waiting frame loses its free-time timer (R156). -/
theorem dropWait_of_waiting (hs : s.tx.state = .waitFreeTime) :
    dropWait s = setTx { s.tx with timer := none } s := if_pos hs

/-- A frame that waits with the transmit registers `x` arms the whole free time (R157). -/
theorem rearmWait_of_waiting {x : Tx} {c : Config} (hx : s.tx = x) (hc : s.cfg = c) (hs : x.state = .waitFreeTime) :
    rearmWait s =
      { s with
        tx := { x with timer := some (s.env.armed + 1) },
        env := { s.env with armed := s.env.armed + 1 },
        effects := s.effects ++ [.timerArm (freeTime c x.ftClass) (s.env.armed + 1)] } := by
  subst hx hc
  rw [rearmWait, if_pos hs, armTx_eq]

/-- The receiver's result at an edge is read off with nothing to send (R38). -/
theorem eq_of_fall_without_request {r : State} (h : exec (.eFall u) (setTx Tx.atReset s) = .next r) :
    r = setTx Tx.atReset (rxFall u (edgeSeen u s)) := by
  obtain ⟨-, rfl⟩ := eq_of_edge h
  exact rxFall_ignoresTx u Tx.atReset (edgeSeen u s)

theorem eq_of_rise_without_request {r : State} (h : exec (.eRise u) (setTx Tx.atReset s) = .next r) :
    r = setTx Tx.atReset (rxRise u (riseNoted u (edgeSeen u s))) := by
  obtain ⟨-, rfl⟩ := eq_of_edge h
  show rearmWait (rxRise u (setTx Tx.atReset (riseNoted u (edgeSeen u s)))) = _
  rw [rxRise_ignoresTx]
  rfl

/-- Settles O47: with and without a request the receiver's rule is the same, and the transmitter's part comes before it
at a fall and after it at a rise. -/
theorem edgesWhileWaiting : Obligations.EdgesWhileWaiting := by
  intro u s r h hs
  have inactive : txActive s = false := active_of_waiting hs
  refine ⟨fun hexec => ?_, fun hexec => ?_⟩
  · obtain rfl := eq_of_fall_without_request (s := s) hexec
    rw [exec_eFall_of_listening h inactive, dropWait_of_waiting (by exact hs), rxFall_ignoresTx]
    rfl
  · obtain rfl := eq_of_rise_without_request (s := s) hexec
    have htx : (rxRise u (riseNoted u (edgeSeen u s))).tx = s.tx := (rxRise_ignoresTx u).tx_eq _
    have hcfg : (rxRise u (riseNoted u (edgeSeen u s))).cfg = s.cfg := ((Continues.refl _).rxRise u).cfg
    have rise : onRise u (edgeSeen u s) = rearmWait (rxRise u (riseNoted u (edgeSeen u s))) :=
      if_neg (Bool.eq_false_iff.mp inactive)
    rw [exec_eRise_eq h, rise, rearmWait_of_waiting htx hcfg hs]
    rfl

end

end Sys2Proof.Machine
end

section
/-! PROOFS. When the application is told (O14): the deliveries and completions emitted so far, and what each operation
adds to them, which is at most one. -/

namespace Sys2Proof.Machine

/-! ## What the application has been told -/

/-- The effects that tell the application of a received frame or of a finished transaction (R66). -/
def tells : Effect → Bool
  | .deliver _ => true
  | .complete _ _ => true
  | .lineWrite _ => false
  | .lineRead _ => false
  | .timerArm _ _ => false
  | .now _ => false
  | .shouldAck _ _ _ => false
  | .reply _ => false
  | .log => false

/-- The deliveries and completions emitted so far, in order. -/
def told (s : State) : List Effect := s.effects.filter tells

section
variable {s t v : State}

@[simp] theorem told_setTx (x : Tx) (s : State) : told (setTx x s) = told s := rfl
@[simp] theorem told_setRx (x : Rx) (s : State) : told (setRx x s) = told s := rfl
@[simp] theorem told_setBus (x : Bus) (s : State) : told (setBus x s) = told s := rfl
@[simp] theorem told_setEnv (x : Env) (s : State) : told (setEnv x s) = told s := rfl
@[simp] theorem told_setResult (x : Result) (s : State) : told (setResult x s) = told s := rfl

theorem told_emit_of_tells {e : Effect} (h : tells e = true) (s : State) : told (emit e s) = told s ++ [e] := by
  simp [told, h]

theorem told_emit_of_not_tells {e : Effect} (h : tells e = false) (s : State) : told (emit e s) = told s := by
  simp [told, h]

/-! ### What tells nothing: the primitives, the waits and the beginning of a cell -/

@[simp] theorem told_lineWrite (l : Level) (s : State) : told (lineWrite l s) = told s := told_emit_of_not_tells rfl _
@[simp] theorem told_lineRead (s : State) : told (lineRead s) = told s := told_emit_of_not_tells rfl _
@[simp] theorem told_nowRead (s : State) : told (nowRead s) = told s := told_emit_of_not_tells rfl _
@[simp] theorem told_timerArm (d : Nat) (s : State) : told (timerArm d s) = told s := told_emit_of_not_tells rfl _
@[simp] theorem told_shouldAck (dest : LogicalAddress) (i : Nat) (s : State) : told (shouldAck dest i s) = told s :=
  told_emit_of_not_tells rfl _
@[simp] theorem told_reply (r : ReplyValue) (s : State) : told (emit (.reply r) s) = told s :=
  told_emit_of_not_tells rfl _
@[simp] theorem told_log (s : State) : told (emit .log s) = told s := told_emit_of_not_tells rfl _
@[simp] theorem told_armTx (d : Nat) (s : State) : told (armTx d s) = told s := told_timerArm d s
@[simp] theorem told_armRx (d : Nat) (s : State) : told (armRx d s) = told s := told_timerArm d s
@[simp] theorem told_txToIdle (s : State) : told (txToIdle s) = told s := rfl
@[simp] theorem told_beginBit (s : State) : told (beginBit s) = told s := by simp [beginBit]
@[simp] theorem told_beginAck (s : State) : told (beginAck s) = told s := by simp [beginAck]

@[simp] theorem told_rxAbort (s : State) : told (rxAbort s) = told s := by
  unfold rxAbort rxToIdle; split <;> simp

@[simp] theorem told_enterWait (s : State) : told (enterWait s) = told s := by
  unfold enterWait; dsimp only; split <;> simp

@[simp] theorem told_txStart (s : State) : told (txStart s) = told s := by
  unfold txStart; dsimp only; split <;> simp

@[simp] theorem told_waitTimer (s : State) : told (waitTimer s) = told s := by
  unfold waitTimer; dsimp only; split
  · simp
  · split <;> simp

@[simp] theorem told_dropWait (s : State) : told (dropWait s) = told s := by unfold dropWait; split <;> simp

@[simp] theorem told_rearmWait (s : State) : told (rearmWait s) = told s := by unfold rearmWait; split <;> simp

@[simp] theorem told_ackDecided (dest : LogicalAddress) (i : Nat) (s : State) :
    told (ackDecided dest i s) = told s := by
  unfold ackDecided; split <;> simp

@[simp] theorem told_txBitDrawn (i k : Nat) (s : State) : told (txBitDrawn i k s) = told s := by
  unfold txBitDrawn; split <;> simp

@[simp] theorem told_raiseAndReuse (u : Nat) (s : State) : told (raiseAndReuse .timingViolation u s) = told s := by
  simp [raiseAndReuse, raise, rxIdleFall]

/-! ### What tells nothing: the receiver's falling edges and time-outs, and the requests -/

theorem told_candidateFall (u : Nat) (s : State) : told (candidateFall u s) = told s := by
  unfold candidateFall startRecognised; split <;> simp

theorem told_cellFall (u : Nat) (s : State) : told (cellFall u s) = told s := by
  unfold cellFall; split <;> simp

theorem told_driveFall (u : Nat) (s : State) : told (driveFall u s) = told s := by
  unfold driveFall; split <;> simp

@[simp] theorem told_rxFall (u : Nat) (s : State) : told (rxFall u s) = told s := by
  unfold rxFall
  split
  · simp [rxIdleFall]
  · exact told_candidateFall u s
  · exact told_cellFall u s
  · exact told_cellFall u s
  · exact told_driveFall u s
  · exact told_log s
  · exact told_log s

@[simp] theorem told_rxTimer (s : State) : told (rxTimer s) = told s := by
  unfold rxTimer
  split
  · simp [holdTimer]
  · exact told_rxAbort s

@[simp] theorem told_onSend (f : Frame) (s : State) : told (onSend f s) = told s := by
  unfold onSend; split <;> simp [raise]

@[simp] theorem told_onCancel (p : Nat) (s : State) : told (onCancel p s) = told s := by
  unfold onCancel; split <;> simp [raise]

@[simp] theorem told_onReset (s : State) : told (onReset s) = told s :=
  (told_nowRead _).trans (told_lineWrite .high s)

/-! ## At most one thing is told -/

/-- From `s` to `t` the application is told nothing, or one thing that `P` allows. -/
def TellsAtMost (P : Effect → Prop) (s t : State) : Prop := told t = told s ∨ ∃ e, P e ∧ told t = told s ++ [e]

theorem TellsAtMost.of_eq {P : Effect → Prop} (h : told t = told s) : TellsAtMost P s t := .inl h

/-- Nothing is told before or after the one thing. -/
theorem TellsAtMost.congr {P : Effect → Prop} {s' t' : State} (h : TellsAtMost P s t) (hs : told s = told s')
    (ht : told t' = told t) : TellsAtMost P s' t' := by
  unfold TellsAtMost
  rw [ht, ← hs]
  exact h

theorem TellsAtMost.mono {P Q : Effect → Prop} (h : TellsAtMost P s t) (hPQ : ∀ e, P e → Q e) : TellsAtMost Q s t :=
  h.imp_right fun ⟨e, he, ht⟩ => ⟨e, hPQ e he, ht⟩

/-- A transaction is completed (R66). -/
def IsCompletion (e : Effect) : Prop := ∃ p r, e = .complete p r

/-- A frame is delivered (R66). -/
def IsDelivery (e : Effect) : Prop := ∃ f, e = .deliver f

/-! ### The transmitter completes a transaction -/

theorem completeTx_tells (r : CompletionResult) (s : State) : TellsAtMost IsCompletion s (completeTx r s) := by
  obtain h | ⟨p, h⟩ := completeTx_cases r s
  · rw [h]
    exact .of_eq rfl
  · rw [h]
    exact .inr ⟨_, ⟨p, r, rfl⟩, told_emit_of_tells rfl s⟩

theorem txDone_tells (s : State) : TellsAtMost IsCompletion s (txDone s) :=
  (completeTx_tells _ _).congr (told_setBus _ s) (told_txToIdle _)

theorem attemptFailed_tells (why : FailReason) (last : Initiator) (s : State) :
    TellsAtMost IsCompletion s (attemptFailed why last s) := by
  unfold attemptFailed retry
  split
  · exact (completeTx_tells _ _).congr (by simp) (told_txToIdle _)
  · exact .of_eq (by simp)

theorem arbLoss_tells (s : State) : TellsAtMost IsCompletion s (arbLoss s) := by
  unfold arbLoss
  exact (attemptFailed_tells _ _ _).congr (by split <;> simp) rfl

theorem releasedCheck_tells {go : State → State} (hgo : ∀ v, told (go v) = told v) (s : State) :
    TellsAtMost IsCompletion s (releasedCheck go s) := by
  unfold releasedCheck
  split
  · exact (arbLoss_tells _).congr (told_lineRead s) rfl
  · exact .of_eq (by simp [hgo])

theorem windowCheck_tells {go : State → State} (hgo : ∀ v, told (go v) = told v) (s : State) :
    TellsAtMost IsCompletion s (windowCheck go s) := by
  unfold windowCheck
  split
  · exact releasedCheck_tells hgo s
  · exact .of_eq (hgo s)

theorem ackVerdict_tells (f : Frame) (a : Bit) (s : State) : TellsAtMost IsCompletion s (ackVerdict f a s) := by
  unfold ackVerdict
  split
  · exact attemptFailed_tells _ _ s
  · split
    · exact txDone_tells s
    · exact .of_eq (by simp)

theorem bitHighTimer_tells (s : State) : TellsAtMost IsCompletion s (bitHighTimer s) :=
  windowCheck_tells (fun v => by split <;> simp) s

theorem ackEndTimer_tells (s : State) : TellsAtMost IsCompletion s (ackEndTimer s) := by
  unfold ackEndTimer
  split
  · exact ackVerdict_tells _ _ s
  · exact .of_eq rfl

theorem txTimer_tells (s : State) : TellsAtMost IsCompletion s (txTimer s) := by
  have released := told_lineWrite .high s
  unfold txTimer
  split
  · exact .of_eq (told_waitTimer s)
  · exact (releasedCheck_tells (fun v => by simp) _).congr released rfl
  · exact releasedCheck_tells (fun v => by simp) s
  · exact (windowCheck_tells (fun v => by simp) _).congr released rfl
  · exact bitHighTimer_tells s
  · exact .of_eq (by simp [ackLowTimer])
  · exact .of_eq (by simp [ackSampleTimer])
  · exact ackEndTimer_tells s
  all_goals exact .of_eq rfl

theorem onTimer_tells (n : Nat) (s : State) : TellsAtMost IsCompletion s (onTimer n s) := by
  unfold onTimer
  split
  · exact txTimer_tells s
  · exact .of_eq (by split <;> simp)

theorem onFall_tells (u : Nat) (s : State) : TellsAtMost IsCompletion s (onFall u s) := by
  unfold onFall txFall
  split
  · split
    · exact .of_eq rfl
    · split
      · exact arbLoss_tells s
      · exact .of_eq (told_log s)
  · exact .of_eq (by simp)

/-! ### The receiver delivers a frame -/

theorem told_eomBit (b : Bit) (s : State) : told (eomBit b s) = told s := by
  unfold eomBit
  dsimp only
  split
  · exact told_rxAbort _
  · simp

theorem rxBlockDone_tells (a : Bit) (s : State) : TellsAtMost IsDelivery s (rxBlockDone a s) := by
  unfold rxBlockDone
  dsimp only
  split
  · split
    next f _ => exact .inr ⟨_, ⟨f, rfl⟩, told_emit_of_tells rfl _⟩
    next => exact .of_eq (told_rxAbort _)
    next => exact .of_eq (told_rxAbort _)
  · exact .of_eq rfl

theorem told_cellRise (u : Nat) (s : State) : told (cellRise u s) = told s := by
  unfold cellRise
  split
  · split
    · rfl
    · exact told_eomBit _ s
  · exact told_rxAbort s
  · exact told_rxAbort s

theorem watchedRise_tells (u : Nat) (s : State) : TellsAtMost IsDelivery s (watchedRise u s) := by
  unfold watchedRise
  split
  · exact rxBlockDone_tells _ s
  · exact .of_eq (told_rxAbort s)
  · exact .of_eq (told_rxAbort s)

theorem rxRise_tells (u : Nat) (s : State) : TellsAtMost IsDelivery s (rxRise u s) := by
  unfold rxRise
  split
  · exact .of_eq (told_log s)
  · exact .of_eq rfl
  · exact .of_eq (told_cellRise u s)
  · exact watchedRise_tells u s
  · exact rxBlockDone_tells 0 s
  · exact .of_eq (told_log s)
  · exact .of_eq (told_log s)

theorem onRise_tells (u : Nat) (s : State) : TellsAtMost IsDelivery s (onRise u s) := by
  unfold onRise
  split
  · exact .of_eq rfl
  · exact (rxRise_tells u (riseNoted u s)).congr rfl (told_rearmWait _)

/-! ## The operations -/

/-- Which operation can tell the application what (R66, R171, R216). -/
inductive CanTell : Instr → Effect → Prop
  | rise {u : Nat} {f : Frame} : CanTell (.eRise u) (.deliver f)
  | deliver {f : Frame} : CanTell (.deliver f) (.deliver f)
  | timer {n p : Nat} {r : CompletionResult} : CanTell (.eTimer n) (.complete p r)
  | fall {u p : Nat} {r : CompletionResult} : CanTell (.eFall u) (.complete p r)
  | complete {p : Nat} {r : CompletionResult} : CanTell (.complete p r) (.complete p r)

/-- Every operation tells the application at most one thing, and only one it can tell. -/
theorem exec_tells (i : Instr) (h : exec i s = .next t) : TellsAtMost (CanTell i) s t := by
  cases i with
  | eFall n =>
    obtain ⟨-, rfl⟩ := eq_of_edge h
    exact ((onFall_tells n _).congr rfl rfl).mono (by rintro _ ⟨p, r, rfl⟩; exact .fall)
  | eRise n =>
    obtain ⟨-, rfl⟩ := eq_of_edge h
    exact ((onRise_tells n _).congr rfl rfl).mono (by rintro _ ⟨f, rfl⟩; exact .rise)
  | eTimer n =>
    obtain rfl := eq_of_admitted h
    exact (onTimer_tells n s).mono (by rintro _ ⟨p, r, rfl⟩; exact .timer)
  | deliver f => obtain rfl := eq_of_next h; exact .inr ⟨_, .deliver, told_emit_of_tells rfl s⟩
  | complete p r => obtain rfl := eq_of_next h; exact .inr ⟨_, .complete, told_emit_of_tells rfl s⟩
  | aSend f => obtain rfl := eq_of_admitted h; exact .of_eq (told_onSend f s)
  | aCancel p => obtain rfl := eq_of_admitted h; exact .of_eq (told_onCancel p s)
  | reset => obtain rfl := exec_reset_next s t h; exact .of_eq (told_onReset s)
  | start low total => obtain rfl := eq_of_configured h; exact .of_eq rfl
  | bit0 low total => obtain rfl := eq_of_configured h; exact .of_eq rfl
  | bit1 low total => obtain rfl := eq_of_configured h; exact .of_eq rfl
  | block w => obtain rfl := eq_of_next h; exact .of_eq rfl
  | header b => obtain rfl := eq_of_next h; exact .of_eq rfl
  | driveBit v b => obtain rfl := eq_of_configured h; exact .of_eq rfl
  | classifyLow low => obtain rfl := eq_of_configured h; exact .of_eq rfl
  | checkPeriod total => obtain rfl := eq_of_configured h; exact .of_eq rfl
  | classifyPulse low total => obtain rfl := eq_of_configured h; exact .of_eq rfl
  | encode f => obtain rfl := eq_of_next h; exact .of_eq rfl
  | decode bs => obtain rfl := eq_of_next h; exact .of_eq rfl
  | txBit j k => obtain rfl := eq_of_next h; exact .of_eq (told_txBitDrawn j k s)
  | ackDecision d j => obtain rfl := eq_of_configured h; exact .of_eq (told_ackDecided d j s)
  | lineWrite l => obtain rfl := eq_of_next h; exact .of_eq (told_lineWrite l s)
  | lineRead => obtain rfl := eq_of_next h; exact .of_eq (told_lineRead s)
  | timerArm d => obtain rfl := eq_of_next h; exact .of_eq (told_timerArm d s)
  | now => obtain rfl := eq_of_next h; exact .of_eq (told_nowRead s)
  | shouldAck d j => obtain rfl := eq_of_next h; exact .of_eq (told_shouldAck d j s)
  | reply r => obtain rfl := eq_of_next h; exact .of_eq (told_reply r s)
  | log => obtain rfl := eq_of_next h; exact .of_eq (told_log s)

/-- What is told among the effects a step appends is allowed, and is told once. -/
theorem news_of_tellsAtMost {P : Effect → Prop} (h : TellsAtMost P s t) (hp : s.effects <+: t.effects) {e : Effect}
    (he : tells e = true) (hmem : e ∈ t.effects.drop s.effects.length) :
    P e ∧ (t.effects.drop s.effects.length).count e = 1 := by
  obtain ⟨new, hnew⟩ := hp
  have hdrop : t.effects.drop s.effects.length = new := by rw [← hnew, List.drop_left]
  have htold : told t = told s ++ new.filter tells := by rw [told, ← hnew, List.filter_append, told]
  rw [hdrop] at hmem ⊢
  have hin : e ∈ new.filter tells := List.mem_filter.mpr ⟨hmem, he⟩
  rw [← List.count_filter he]
  obtain h | ⟨one, hone, h⟩ := h
  · rw [List.self_eq_append_right.mp (h.symm.trans htold)] at hin
    cases hin
  · rw [← List.append_cancel_left (h.symm.trans htold)] at hin ⊢
    obtain rfl := List.mem_singleton.mp hin
    exact ⟨hone, List.count_singleton_self⟩

/-- Settles O14: an operation tells at most one thing (`exec_tells`), and effects are only appended (O12). -/
theorem whenTheApplicationIsTold : Obligations.WhenTheApplicationIsTold := by
  intro i s t h
  obtain ⟨-, -, -, -, hgrows⟩ := configurationFixedEffectsInOrder i s t h
  have news := fun e => news_of_tellsAtMost (e := e) (exec_tells i h) hgrows
  refine ⟨fun f hf => ?_, fun p r hc => ?_⟩
  · obtain ⟨can, hcount⟩ := news _ rfl hf
    refine ⟨?_, hcount⟩
    cases can with
    | rise => exact .inl ⟨_, rfl⟩
    | deliver => exact .inr rfl
  · obtain ⟨can, -⟩ := news _ rfl hc
    cases can with
    | timer => exact .inl ⟨_, rfl⟩
    | fall => exact .inr (.inl ⟨_, rfl⟩)
    | complete => exact .inr (.inr rfl)

end

end Sys2Proof.Machine
end

section
/-! PROOFS. The edges the receiver takes, row by row of its table R222 (O49 to O55), and those it is not waiting for
(O58). -/

namespace Sys2Proof.Machine

/-! ## What an edge does beside the receiver's rule -/

/-- A falling edge takes the free-time timer from a frame waiting for the bus (R156). -/
theorem dropWait_eq (s : State) : dropWait s = setTx (waitDropped s.tx) s := by
  by_cases hs : s.tx.state = .waitFreeTime
  · rw [dropWait_of_waiting hs, waitDropped, if_pos hs]
  · rw [dropWait, waitDropped, if_neg hs, if_neg hs]
    rfl

section
variable {u fall : Nat} {s : State}

/-- A falling edge that reaches the receiver: its rule, and the wait that is dropped (R252, R156). -/
theorem exec_eFall_of_inactive (h : EdgeReady u s) (ha : txActive s = false) :
    exec (.eFall u) s = .next (setTx (waitDropped s.tx) (rxFall u (edgeSeen u s))) := by
  rw [exec_eFall_of_listening h ha, dropWait_eq, rxFall_ignoresTx]
  rfl

/-- The time in the current cell, from the falling edge that began it (R206). -/
theorem cellTime_of_fall (hfall : s.rx.fall = some fall) : cellTime u s = u - fall := by
  rw [cellTime, hfall, Option.getD_some]

/-! ## The rows of the table (R222) -/

theorem rxFall_idle (hs : s.rx.state = .idle) : rxFall u s = rxIdleFall u s := by
  simp only [rxFall, hs]

theorem rxFall_candidate (hs : s.rx.state = .detectStart) (hp : s.rx.phase = .awaitFall) :
    rxFall u s = candidateFall u s := by
  simp only [rxFall, hs, hp]

theorem rxFall_cell (hs : s.rx.state = .receiveBlock ∨ s.rx.state = .skipAck) (hp : s.rx.phase = .awaitFall) :
    rxFall u s = cellFall u s := by
  obtain hs | hs := hs
  · simp only [rxFall, hs, hp]
  · simp only [rxFall, hs, hp]

theorem rxFall_driven (hs : s.rx.state = .driveAck) (hp : s.rx.phase = .awaitFall) :
    rxFall u s = driveFall u s := by
  simp only [rxFall, hs, hp]

/-- A falling edge the receiver is not waiting for is logged (R220). -/
theorem rxFall_unexpected (hs : s.rx.state ≠ .idle) (hp : s.rx.phase ≠ .awaitFall) :
    rxFall u s = emit .log s := by
  unfold rxFall
  split
  next h => exact absurd h hs
  next h => exact absurd h hp
  next h => exact absurd h hp
  next h => exact absurd h hp
  next h => exact absurd h hp
  next => rfl
  next => rfl

theorem rxRise_candidate (hs : s.rx.state = .detectStart) (hp : s.rx.phase = .awaitRise) :
    rxRise u s = candidateRise u s := by
  simp only [rxRise, hs, hp]

theorem rxRise_cell (hs : s.rx.state = .receiveBlock) (hp : s.rx.phase = .awaitRise) :
    rxRise u s = cellRise u s := by
  simp only [rxRise, hs, hp]

theorem rxRise_watched (hs : s.rx.state = .skipAck) (hp : s.rx.phase = .awaitRise) :
    rxRise u s = watchedRise u s := by
  simp only [rxRise, hs, hp]

theorem rxRise_driven (hs : s.rx.state = .driveAck) (hp : s.rx.phase = .awaitRise) :
    rxRise u s = rxBlockDone 0 s := by
  simp only [rxRise, hs, hp]

/-- A rising edge the receiver is not waiting for is logged (R219, R220). -/
theorem rxRise_unexpected (h : s.rx.state = .idle ∨ s.rx.phase ≠ .awaitRise) : rxRise u s = emit .log s := by
  obtain hs | hp := h
  · simp only [rxRise, hs, raise]
  · unfold rxRise
    split
    next => rfl
    next h => exact absurd h hp
    next h => exact absurd h hp
    next h => exact absurd h hp
    next h => exact absurd h hp
    next => rfl
    next => rfl

/-! ## The candidate start bit -/

/-- Settles O49: the rows of an idle receiver and of the candidate's rising edge. -/
theorem candidateStartBit : Obligations.CandidateStartBit := by
  refine ⟨fun u s ⟨hready, ha, hs, _⟩ => ?_, fun u fall s ⟨hready, ha, hs, hp⟩ hfall => ?_⟩
  · rw [exec_eFall_of_inactive hready ha, rxFall_idle (by exact hs), rxIdleFall_eq]
    rfl
  · rw [exec_eRise_of_listening hready ha, rxRise_candidate (by exact hs) (by exact hp), candidateRise_eq,
      cellTime_of_fall (by exact hfall)]
    rfl

/-- A falling edge that is a violation: the frame is dropped and the edge is a new candidate (R204, R205). -/
theorem exec_eFall_of_violation (hready : EdgeReady u s) (ha : txActive s = false) (hp : s.rx.phase = .awaitFall)
    (violation : rxFall u (edgeSeen u s) = raiseAndReuse .timingViolation u (edgeSeen u s)) :
    exec (.eFall u) s =
      .next { s with
        tx := waitDropped s.tx,
        rx :=
          { Rx.atReset with
            state := .detectStart, phase := .awaitRise, fall := some u, timer := some (s.env.armed + 1) },
        env := { s.env with lastEdge := u, clock := max s.env.clock u, armed := s.env.armed + 1 },
        effects := s.effects ++ [.timerArm s.cfg.rxTimeout (s.env.armed + 1)] } := by
  have notHeld : (edgeSeen u s).rx.phase ≠ .hold := fun hh => nomatch hp.symm.trans hh
  rw [exec_eFall_of_inactive hready ha, violation, violationReused_eq u _ notHeld]
  rfl

/-- Settles O50: the pulse is classified (R115), and only a start bit begins a block. -/
theorem fallEndsTheCandidate : Obligations.FallEndsTheCandidate := by
  rintro u fall low s ⟨hready, ha, hs, hp⟩ hfall hlow
  have row : rxFall u (edgeSeen u s) = candidateFall u (edgeSeen u s) := rxFall_candidate hs hp
  have pulse : classifyPulse s.cfg (s.rx.low.getD 0) (cellTime u s) = classifyPulse s.cfg low (u - fall) := by
    rw [hlow, cellTime_of_fall hfall, Option.getD_some]
  refine ⟨fun hstart => ?_, fun hother => ?_⟩
  · have begun : candidateFall u (edgeSeen u s) = startRecognised u (edgeSeen u s) := if_pos (pulse.trans hstart)
    rw [exec_eFall_of_inactive hready ha, row, begun, startRecognised_eq]
    rfl
  · exact exec_eFall_of_violation hready ha hp (row.trans (if_neg (mt pulse.symm.trans hother)))

/-! ## The falling edge of a cell -/

/-- The period that is checked is the time since the falling edge before (R206, R114). -/
theorem checkPeriod_of_fall (hfall : s.rx.fall = some fall) :
    checkPeriod s.cfg (cellTime u s) = true ↔ within (u - fall) s.cfg.bitPeriod := by
  rw [cellTime_of_fall hfall, checkPeriod_iff]

/-- Settles O51: the period is checked (R114), and decides. -/
theorem fallBeginsACell : Obligations.FallBeginsACell := by
  rintro u fall st s hst ⟨hready, ha, rfl, hp⟩ hfall
  have row : rxFall u (edgeSeen u s) = cellFall u (edgeSeen u s) := rxFall_cell hst hp
  refine ⟨fun hin => ?_, fun hout => ?_⟩
  · have begun : cellFall u (edgeSeen u s) = _ := if_pos ((checkPeriod_of_fall hfall).mpr hin)
    rw [exec_eFall_of_inactive hready ha, row, begun, armRx_eq]
    rfl
  · exact exec_eFall_of_violation hready ha hp (row.trans (if_neg (mt (checkPeriod_of_fall hfall).mp hout)))

/-- The acknowledge is begun: the line is pulled, and held for the low phase of a 0 (R212). -/
theorem driveFall_inBand (hfall : s.rx.fall = some fall) (h : within (u - fall) s.cfg.bitPeriod) :
    driveFall u s =
      { s with
        rx := { s.rx with fall := some u, phase := .hold, timer := some (s.env.armed + 1) },
        bus := { s.bus with drive := .low }, env := { s.env with armed := s.env.armed + 1 },
        effects := s.effects ++ [.lineWrite .low, .timerArm s.cfg.bit0Low.nom (s.env.armed + 1)] } := by
  rw [driveFall, if_pos ((checkPeriod_of_fall hfall).mpr h)]
  simp [armRx_eq, lineWrite_eq, setRx]

/-- Settles O52: the period is checked before the line is touched. -/
theorem fallBeginsADrivenAck : Obligations.FallBeginsADrivenAck := by
  rintro u fall s ⟨hready, ha, hs, hp⟩ hfall
  have row : rxFall u (edgeSeen u s) = driveFall u (edgeSeen u s) := rxFall_driven hs hp
  refine ⟨fun hin => ?_, fun hout => ?_⟩
  · rw [exec_eFall_of_inactive hready ha, row, driveFall_inBand (by exact hfall) (by exact hin)]
    rfl
  · exact exec_eFall_of_violation hready ha hp (row.trans (if_neg (mt (checkPeriod_of_fall hfall).mp hout)))

/-! ## The rising edge of a cell -/

/-- The low phase that is classified runs from the cell's falling edge (R207, R113). -/
theorem classifyLow_of_fall (hfall : s.rx.fall = some fall) :
    classifyLow s.cfg (cellTime u s) = classifyLow s.cfg (u - fall) := by
  rw [cellTime_of_fall hfall]

/-- An error at a rising edge drops the frame in silence: the engine does not hold the line there (R205). -/
theorem rxAbort_awaitRise (hp : s.rx.phase = .awaitRise) : rxAbort s = { s with rx := Rx.atReset } :=
  rxAbort_silent s fun ⟨_, hh⟩ => nomatch hp.symm.trans hh

theorem cellRise_of_dataBit {b : Bit} (hfall : s.rx.fall = some fall) (hk : s.rx.k < 8)
    (h : classifyLow s.cfg (u - fall) = .bitValue b) : cellRise u s = dataBit b s := by
  simp only [cellRise, classifyLow_of_fall hfall, h, if_pos hk]

theorem cellRise_of_eomBit {b : Bit} (hfall : s.rx.fall = some fall) (hk : s.rx.k = 8)
    (h : classifyLow s.cfg (u - fall) = .bitValue b) : cellRise u s = eomBit b s := by
  simp only [cellRise, classifyLow_of_fall hfall, h, if_neg hk.not_lt]

theorem cellRise_of_violation (hp : s.rx.phase = .awaitRise) (hfall : s.rx.fall = some fall)
    (h : classifyLow s.cfg (u - fall) = .timingViolation) : cellRise u s = { s with rx := Rx.atReset } := by
  simp only [cellRise, classifyLow_of_fall hfall, h, raise, rxAbort_awaitRise hp]

theorem watchedRise_of_bit {a : Bit} (hfall : s.rx.fall = some fall)
    (h : classifyLow s.cfg (u - fall) = .bitValue a) : watchedRise u s = rxBlockDone a s := by
  simp only [watchedRise, classifyLow_of_fall hfall, h]

theorem watchedRise_of_violation (hp : s.rx.phase = .awaitRise) (hfall : s.rx.fall = some fall)
    (h : classifyLow s.cfg (u - fall) = .timingViolation) : watchedRise u s = { s with rx := Rx.atReset } := by
  simp only [watchedRise, classifyLow_of_fall hfall, h, raise, rxAbort_awaitRise hp]

/-- Settles O53: before the eighth data bit a classified bit is shifted in. -/
theorem riseOfADataBit : Obligations.RiseOfADataBit := by
  rintro u fall s ⟨hready, ha, hs, hp⟩ hfall hk
  dsimp only
  rw [exec_eRise_of_listening hready ha, rxRise_cell (by exact hs) (by exact hp)]
  refine ⟨fun b hb => ?_, fun hviolation => ?_⟩
  · rw [cellRise_of_dataBit (by exact hfall) (by exact hk) (by exact hb), dataBit_eq]
    rfl
  · rw [cellRise_of_violation (by exact hp) (by exact hfall) (by exact hviolation)]
    rfl

/-- The destination the ACK decision is made for, as O54 writes it (R208, R89). -/
theorem frameDest_eq {x : Rx} {dest : LogicalAddress}
    (h : if x.i = 0 then dest = x.shift.extractLsb' 0 4 else x.dest = some dest) : frameDest x = dest := by
  unfold frameDest
  split at h
  next hi => rw [if_pos hi, h, headerDestination]
  next hi => rw [if_neg hi, h, Option.getD_some]

/-- Settles O54: the EOM bit is classified, a frame too long is dropped, and the hook is asked if the frame concerns the
device. -/
theorem riseOfTheEomBit : Obligations.RiseOfTheEomBit := by
  rintro u fall dest s ⟨hready, ha, hs, hp⟩ hfall hk hdest
  obtain rfl := frameDest_eq hdest
  dsimp only
  rw [exec_eRise_of_listening hready ha, rxRise_cell (by exact hs) (by exact hp)]
  refine ⟨fun hdropped => ?_, fun b hb hfits => ?_⟩
  · obtain hviolation | ⟨hb, hi⟩ := hdropped
    · rw [cellRise_of_violation (by exact hp) (by exact hfall) (by exact hviolation)]
      rfl
    · have notHeld : (riseNoted u (edgeSeen u s)).rx.phase ≠ .hold := fun hh => nomatch hp.symm.trans hh
      rw [cellRise_of_eomBit (by exact hfall) (by exact hk) (by exact hb),
        eomBit_tooLong 0 _ (by exact ⟨hi, rfl⟩) notHeld]
      rfl
  · rw [cellRise_of_eomBit (by exact hfall) (by exact hk) (by exact hb)]
    refine ⟨fun hother => ?_, fun hmeant => ?_⟩
    · have unasked : hookConcerned s.cfg (frameDest s.rx) = false :=
        Bool.eq_false_iff.mpr (mt (hookConcerned_iff _ _).mp (not_or.mpr hother))
      rw [eomBit_unconcerned b _ (by exact hfits) (by exact unasked)]
      rfl
    · rw [eomBit_concerned b _ (by exact hfits) (by exact (hookConcerned_iff _ _).mpr hmeant)]
      rfl

/-- Settles O55: either ACK cell completes the block, and with EOM bit 0 the next one begins. -/
theorem blockIsComplete : Obligations.BlockIsComplete := by
  rintro u fall st s ⟨hready, ha, rfl, hp⟩ hfall
  dsimp only
  rw [exec_eRise_of_listening hready ha]
  refine ⟨fun a hcell heom => ?_, fun hs hviolation => ?_⟩
  · have completed : rxRise u (riseNoted u (edgeSeen u s)) = rxBlockDone a (riseNoted u (edgeSeen u s)) := by
      obtain ⟨hs, rfl⟩ | ⟨hs, hbit⟩ := hcell
      · exact rxRise_driven hs hp
      · rw [rxRise_watched (by exact hs) (by exact hp), watchedRise_of_bit (by exact hfall) (by exact hbit)]
    have notLast : (riseNoted u (edgeSeen u s)).rx.eom ≠ 1 := fun h1 => nomatch heom.symm.trans h1
    rw [completed, rxBlockDone_more a _ notLast, completedBlock, show (riseNoted u (edgeSeen u s)).rx.eom = 0 from heom]
    rfl
  · rw [rxRise_watched (by exact hs) (by exact hp),
      watchedRise_of_violation (by exact hp) (by exact hfall) (by exact hviolation)]
    rfl

/-! ## Unexpected edges -/

/-- Settles O58: the rows left are one row, `Log(InvalidState)`. -/
theorem unexpectedEdges : Obligations.UnexpectedEdges := by
  intro u s hready ha
  refine ⟨fun hs hp => ?_, fun hunawaited => ?_⟩
  · rw [exec_eFall_of_inactive hready ha, rxFall_unexpected (by exact hs) (by exact hp)]
    rfl
  · rw [exec_eRise_of_listening hready ha, rxRise_unexpected (by exact hunawaited)]
    rfl

end

end Sys2Proof.Machine
end

section
/-! PROOFS. The receiver's timers (O57), and which frames the engine acknowledges (O15). -/

namespace Sys2Proof.Machine

section
variable {u : Nat} {s : State}

/-! ## The receiver's timers -/

/-- An expiry the transmitter does not wait on is the receiver's, or nobody's (R254). -/
theorem exec_eTimer_of_not_tx {n : Nat} (h : Ready s) (hn : s.tx.timer ≠ some n) :
    exec (.eTimer n) s = .next (if s.rx.timer = some n then rxTimer s else s) := by
  obtain ⟨hc, hl⟩ := h
  have others : onTimer n s = if s.rx.timer = some n then rxTimer s else s := if_neg hn
  rw [← others]
  exact admitted_eq s _ hc hl

/-- The end of a hold (R213). -/
theorem rxTimer_holding (h : s.rx.state = .driveAck ∧ s.rx.phase = .hold) : rxTimer s = holdTimer s := if_pos h

/-- The receive time-out (R217). -/
theorem rxTimer_silent (h : ¬(s.rx.state = .driveAck ∧ s.rx.phase = .hold)) :
    rxTimer s = { s with rx := Rx.atReset } := (if_neg h).trans (rxAbort_silent s h)

/-- Settles O57: the handle tells whose the expiry is, and the phase what it ends. -/
theorem timersOfTheReceiver : Obligations.TimersOfTheReceiver := by
  intro n s h hn
  rw [exec_eTimer_of_not_tx h hn]
  refine ⟨fun hown hheld => ?_, fun hown hfree => ?_, fun hstale => ?_⟩
  · rw [if_pos hown, rxTimer_holding hheld, holdTimer_eq]
  · rw [if_pos hown, rxTimer_silent hfree]
  · rw [if_neg hstale]

/-! ## Which frames are acknowledged -/

/-- Outside the ACK cell of a frame it acknowledges, the receiver leaves a released line released at a fall (R212). -/
theorem rxFall_released (h : s.bus.drive = .high) (hs : s.rx.state ≠ .driveAck) : (rxFall u s).bus.drive = .high := by
  have held : HeldInv s := heldInv_of_released h
  unfold rxFall
  split
  next => exact h
  next hp => exact held.candidateFall (by simp [hp])
  next hp => exact held.cellFall (by simp [hp])
  next hp => exact held.cellFall (by simp [hp])
  next hd _ => exact absurd hd hs
  next => exact h
  next => exact h

/-- An active transmitter pulls the line at no edge (R166, R175). -/
theorem txFall_released (h : s.bus.drive = .high) : (txFall s).bus.drive = .high := by
  unfold txFall
  split
  · exact h
  · split
    · exact arbLoss_drive s
    · exact h

/-- Only in the ACK cell the engine drives does a falling edge make it pull the line (R252, R212). -/
theorem driveAck_of_fall_pulls (h : s.bus.drive = .high) (hlow : (onFall u s).bus.drive = .low) :
    s.rx.state = .driveAck := by
  by_contra hs
  have released : (onFall u s).bus.drive = .high := by
    unfold onFall
    split
    · exact txFall_released h
    · rw [dropWait_eq]
      exact rxFall_released (by exact h) (by exact hs)
  exact nomatch released.symm.trans hlow

/-- The frame whose ACK cell the engine drives is a broadcast or the device's own (R209, R39). -/
theorem RxInv.dest_of_driveAck {c : Config} {n e : Nat} {x : Rx} (h : RxInv c n e x) (hs : x.state = .driveAck) :
    ∃ d, x.dest = some d ∧ (d = 15 ∨ d = c.ownAddr) := by
  obtain ⟨-, -, -, hdest⟩ := (rxLegal_driven_iff hs).mp h.legalOk
  obtain ⟨d, hd⟩ := Option.ne_none_iff_exists'.mp hdest
  exact ⟨d, hd, (hookConcerned_iff c d).mp (h.drivenIfConcerned hs d hd)⟩

/-- Settles O15: the edge that pulls the line is in a driven ACK cell, and its frame concerns the device. -/
theorem unaddressedNeverAcknowledged : Obligations.UnaddressedNeverAcknowledged := by
  intro u s t hinv hexec hhigh hlow
  obtain ⟨-, rfl⟩ := eq_of_edge hexec
  have hs : s.rx.state = .driveAck := driveAck_of_fall_pulls (s := edgeSeen u s) hhigh hlow
  exact ⟨hs, hinv.rxOk.dest_of_driveAck hs⟩

end

end Sys2Proof.Machine
end

section
/-! PROOFS. The dispatcher (44_dispatch.md): every event has a result (O10), and the receive registers are out of reach of
an active transmitter (O11). -/

namespace Sys2Proof.Machine

section
variable {s : State}

/-! ## Every event has a result -/

/-- The invariants are enough for an event to be admitted (R8, R39). -/
theorem StateInv.ready (h : StateInv s) : Ready s :=
  ⟨h.configOk, Bool.and_eq_true_iff.mpr ⟨h.txOk.legalOk, h.rxOk.legalOk⟩⟩

/-- An edge not before the latest one is not before the start of the current cell either, which was itself an edge
(R303). -/
theorem StateInv.edgeReady (h : StateInv s) {u : Nat} (hu : s.env.lastEdge ≤ u) : EdgeReady u s := by
  have cellBegan : s.rx.fall.getD 0 ≤ u := by
    cases hfall : s.rx.fall with
    | none => exact Nat.zero_le u
    | some fall => exact (h.rxOk.fallSeen fall hfall).trans hu
  exact ⟨h.ready, decide_eq_true ⟨hu, cellBegan⟩⟩

theorem exec_eTimer_eq (h : Ready s) (n : Nat) : exec (.eTimer n) s = .next (onTimer n s) := admitted_eq s _ h.1 h.2

/-- `RESET` asks nothing of the state but the configuration presented (R8, R256). -/
theorem exec_reset_eq (h : configWf s.cfgIn = true) : exec .reset s = .next (onReset s) := if_pos h

/-- Settles O10: each event is admitted under the invariants, and an event that is admitted runs. -/
theorem everyEventHasAResult : Obligations.EveryEventHasAResult := by
  intro s h
  refine ⟨fun f => ⟨_, exec_aSend_eq h.ready f⟩, fun p => ⟨_, exec_aCancel_eq h.ready p⟩,
    fun n => ⟨_, exec_eTimer_eq h.ready n⟩, fun u hu => ?_, fun hc => ⟨_, exec_reset_eq hc⟩⟩
  exact ⟨⟨_, exec_eFall_eq (h.edgeReady hu)⟩, ⟨_, exec_eRise_eq (h.edgeReady hu)⟩⟩

/-! ## The transmitter's transitions and the receive registers

Of all of them only `TxStart()` writes a receive register (R159), and it is reached from `WaitFreeTime`, where the
transmitter is not active yet (R251). -/

theorem completeTx_rx (r : CompletionResult) (s : State) : (completeTx r s).rx = s.rx := by
  unfold completeTx; split <;> rfl

theorem txDone_rx (s : State) : (txDone s).rx = s.rx := completeTx_rx _ _

theorem retry_rx (why : FailReason) (s : State) : (retry why s).rx = s.rx := by
  unfold retry
  split
  · exact completeTx_rx _ _
  · exact enterWait_rx _

theorem attemptFailed_rx (why : FailReason) (last : Initiator) (s : State) :
    (attemptFailed why last s).rx = s.rx := retry_rx _ _

theorem arbLoss_rx (s : State) : (arbLoss s).rx = s.rx := by
  unfold arbLoss
  split
  · exact attemptFailed_rx _ _ _
  · exact attemptFailed_rx _ _ _

theorem releasedCheck_rx {go : State → State} (hgo : ∀ v, (go v).rx = v.rx) (s : State) :
    (releasedCheck go s).rx = s.rx := by
  unfold releasedCheck
  split
  · exact arbLoss_rx _
  · exact hgo _

theorem windowCheck_rx {go : State → State} (hgo : ∀ v, (go v).rx = v.rx) (s : State) :
    (windowCheck go s).rx = s.rx := by
  unfold windowCheck
  split
  · exact releasedCheck_rx hgo s
  · exact hgo s

theorem bitHighTimer_rx (s : State) : (bitHighTimer s).rx = s.rx := by
  refine windowCheck_rx (fun v => ?_) s
  split <;> rfl

theorem ackVerdict_rx (f : Frame) (a : Bit) (s : State) : (ackVerdict f a s).rx = s.rx := by
  unfold ackVerdict
  split
  · exact attemptFailed_rx _ _ s
  · split
    · exact txDone_rx s
    · rfl

theorem ackEndTimer_rx (s : State) : (ackEndTimer s).rx = s.rx := by
  unfold ackEndTimer
  split
  · exact ackVerdict_rx _ _ s
  · rfl

/-- A timer of an active transmitter (R254, R179). -/
theorem txTimer_rx (ha : txActive s = true) : (txTimer s).rx = s.rx := by
  unfold txTimer
  split
  next hs => exact absurd ((active_of_waiting hs).symm.trans ha) Bool.false_ne_true
  next => exact releasedCheck_rx (fun _ => by rfl) (lineWrite .high s)
  next => exact releasedCheck_rx (fun _ => by rfl) s
  next => exact windowCheck_rx (fun _ => by rfl) (lineWrite .high s)
  next => exact bitHighTimer_rx s
  next => rfl
  next => rfl
  next => exact ackEndTimer_rx s
  all_goals rfl

/-- A falling edge that an active transmitter takes (R166). -/
theorem txFall_rx (s : State) : (txFall s).rx = s.rx := by
  unfold txFall
  split
  · rfl
  · split
    · exact arbLoss_rx s
    · rfl

/-! ## The events beside an active transmitter -/

theorem onFall_rx_of_active (ha : txActive s = true) (u : Nat) : (onFall u s).rx = s.rx := by
  rw [onFall, if_pos ha, txFall_rx]

theorem onRise_rx_of_active (ha : txActive s = true) (u : Nat) : (onRise u s).rx = s.rx := by
  rw [onRise, if_pos ha]; rfl

theorem onTimer_rx_of_active (ha : txActive s = true) {n : Nat} (hn : s.tx.timer = some n) :
    (onTimer n s).rx = s.rx := by
  rw [onTimer, if_pos hn, txTimer_rx ha]

/-- A request never touches the receiver (R151). -/
theorem onSend_rx (f : Frame) (s : State) : (onSend f s).rx = s.rx := by
  unfold onSend
  split
  · rfl
  · exact enterWait_rx _

theorem onCancel_rx (p : Nat) (s : State) : (onCancel p s).rx = s.rx := by
  unfold onCancel; split <;> rfl

/-- Settles O11: each event named, by its rule while the transmitter is active. -/
theorem receiverUntouchedWhileTransmitting : Obligations.ReceiverUntouchedWhileTransmitting := by
  intro i s t ha hexec hi
  cases exec_does i hexec with
  | fall => exact onFall_rx_of_active (by exact ha) _
  | rise => exact onRise_rx_of_active (by exact ha) _
  | timer => exact onTimer_rx_of_active ha hi
  | send => exact onSend_rx _ s
  | cancel => exact onCancel_rx _ s
  | reset => exact hi.elim
  | write => exact hi.elim
  | aside _ h => exact h.rx

end

end Sys2Proof.Machine
end
